-- ==== Sys2Proof/Word.lean ====
section
/-! DEFINITION. The byte and the 6-byte link address, the two plain value types every other file uses
(spec/00_scope.md rules R10 and R12). -/

namespace Sys2Proof

/-- A byte is 8 bits, value 0 to 255, unsigned (R10). -/
abbrev Byte := BitVec 8

/-- A link address: a string of 6 bytes, opaque to the core (R12, R58). `b0` is byte 0 of the string, at the
lower datagram offset and sent first (R53). -/
structure Addr where
  b0 : Byte
  b1 : Byte
  b2 : Byte
  b3 : Byte
  b4 : Byte
  b5 : Byte
  deriving DecidableEq, Repr

/-- A datagram: one link envelope with its frame, as a byte string of any length (R12, R50 (c)). -/
abbrev Datagram := List Byte

end Sys2Proof
end

