-- ==== Sys2Proof/Config.lean ====
section
/-! DEFINITION. The constants the spec fixes, by name (spec/00_scope.md rules R6 and R8), and the record of the
parameters whose value the spec leaves open (R7, R34). -/

namespace Sys2Proof

/-- `MAX_PAYLOAD`: the largest payload byte count (R6). -/
abbrev maxPayload : Nat := 127
/-- `SEQ_MOD`: the sequence counter wraps modulo this (R6). -/
abbrev seqMod : Nat := 32
/-- `SEQ_BITS`: the width of `sequence` (R6). -/
abbrev seqBits : Nat := 5
/-- `TYPE_BITS`: the width of `type` (R6). -/
abbrev typeBits : Nat := 4
/-- `HEADER_BYTES`: start marker, length, sequence, type, checksum (R6). -/
abbrev headerBytes : Nat := 5
/-- `ADDR_BYTES`: the size of a link address (R6). -/
abbrev addrSize : Nat := 6
/-- `MAX_ATTEMPTS`: transmissions per reliable send (R6). -/
abbrev maxAttempts : Nat := 5
/-- `TIMEOUT_MS`: the deadline of one attempt of reliable send, and of the whole reliable receive (R6). -/
abbrev timeoutMs : Nat := 2000
/-- `T_ACK`: the type tag ACK (R6, R85). -/
abbrev tAck : BitVec 4 := 0
/-- `T_NACK`: the type tag NACK (R6, R85). -/
abbrev tNack : BitVec 4 := 1
/-- `ENVELOPE_BYTES` = 14: two addresses and the ethertype (R8). -/
abbrev envelopeSize : Nat := 14
/-- `MIN_DATAGRAM` = 19: a datagram carrying a frame with no payload (R8). -/
abbrev minDatagram : Nat := 19
/-- `MAX_DATAGRAM` = 146: the largest datagram the core emits (R8). -/
abbrev maxDatagram : Nat := 146

/-- The parameters the spec names and gives no value (R7), fixed for the life of an instance (R34).
DESIGN CHOICE (log entry 1, safe): every function that needs one takes this record as an argument, and
`Machine.State` carries one copy that nothing writes, because the fixed type of `step` has no other
argument; a statement over all states is then a statement over all values of the parameters. -/
structure Config where
  /-- `START_MARKER`: the frame's first byte. -/
  startMarker : Byte
  /-- `ETHERTYPE`: the envelope's protocol field. -/
  ethertype : BitVec 16
  /-- `SRC_PATTERN`: the source address written in every envelope sent. -/
  srcPattern : Addr
  /-- `RXQ_DEPTH`: the capacity of the receive queue, `none` for unbounded (R7, R37, D18). -/
  rxqDepth : Option Nat
  deriving DecidableEq, Repr

/-- The values the spec's byte listings use (R134, D1 to D3; D18 for the unbounded queue).
DESIGN CHOICE (log entry 2, unsafe): the reset state carries them; "example only" in the spec. -/
def Config.listing : Config :=
  { startMarker := 0x7E
    ethertype := 0x88B5
    srcPattern := ⟨0xFF, 0xFF, 0xFF, 0xFF, 0xFF, 0xFF⟩
    rxqDepth := none }

end Sys2Proof
end

