-- ==== Sys2Proof/Syntax.lean ====
section
/-! DEFINITION. The instructions of the stop-and-wait frame core: the ten commands of the host (format `CMD`) and
the sixteen frames told apart by their type tag (format `FRAME`, in the envelope `ENV`), one constructor per row of
spec/opcode_table.json (spec/00_scope.md rule R2, spec/30_encoding.md rules R80 to R96). -/

namespace Sys2Proof

/-- `Filter` = `none` or `some a`: the destination filter operand (R12). -/
abbrev Filter := Option Addr

/-- A `Frame` record (R12). The start marker is not a field of it. -/
structure Frame where
  /-- payload byte count, 0 to 127. -/
  length : BitVec 7
  /-- 5-bit sequence number. -/
  sequence : BitVec 5
  /-- 4-bit type tag. -/
  type : BitVec 4
  /-- the checksum as carried. -/
  checksum : Byte
  /-- the payload; `length` of them in a well-formed frame. -/
  payload : List Byte
  deriving DecidableEq, Repr

/-- The 14-byte link envelope `ENV` as it stands in a datagram (R82): the ethertype is the two bytes read,
tested when the datagram is parsed. -/
structure Envelope where
  dest : Addr
  src : Addr
  ethertype : BitVec 16
  deriving DecidableEq, Repr

/-- What a `FRAME` row's bits hold beside the tag (R81): the start marker byte as read, the three fields
without their reserved bits, and the payload. -/
structure Body where
  marker : Byte
  length : BitVec 7
  sequence : BitVec 5
  checksum : Byte
  payload : List Byte
  deriving DecidableEq, Repr

/-- The frame a body spells under the tag `t`. -/
def Body.frame (t : BitVec 4) (b : Body) : Frame :=
  { length := b.length, sequence := b.sequence, type := t, checksum := b.checksum, payload := b.payload }

/-- The instructions. A command carries the operands of R93; a frame carries its envelope and its body, and its
constructor is its type tag (R85). -/
inductive Instr where
  | openHandle
  | closeHandle
  | build (seq typ len : Byte) (payload : List Byte)
  | validate (f : Frame)
  | lsend (dest : Addr)
  | lrecv (filter : Filter)
  | rsend (dest : Addr) (filter : Filter)
  | rrecv (filter : Filter)
  | seqrd
  | seqadv
  | ack (e : Envelope) (b : Body)
  | nack (e : Envelope) (b : Body)
  | tag2 (e : Envelope) (b : Body)
  | tag3 (e : Envelope) (b : Body)
  | tag4 (e : Envelope) (b : Body)
  | data (e : Envelope) (b : Body)
  | fileText (e : Envelope) (b : Body)
  | fileVideo (e : Envelope) (b : Body)
  | fileImage (e : Envelope) (b : Body)
  | endOfFile (e : Envelope) (b : Body)
  | moveRight (e : Envelope) (b : Body)
  | moveUp (e : Envelope) (b : Body)
  | moveDown (e : Envelope) (b : Body)
  | moveLeft (e : Envelope) (b : Body)
  | tag14 (e : Envelope) (b : Body)
  | error (e : Envelope) (b : Body)
  deriving DecidableEq, Repr

/-- The two places an instruction comes from: the command port (R93) and the receive port, whose unit is a
datagram (R55). -/
inductive Port where
  | command
  | receive
  deriving DecidableEq, Repr

/-- The names of the 4-bit type field (R85, R87): ACK, NACK, a named application tag, or unassigned. -/
inductive Tag where
  | ack
  | nack
  | data
  | fileText
  | fileVideo
  | fileImage
  | endOfFile
  | moveRight
  | moveUp
  | moveDown
  | moveLeft
  | error
  | unassigned (n : BitVec 4)
  deriving DecidableEq, Repr

/-- The codes an ERROR frame carries (R91); the core does not read them. -/
inductive ErrorCode where
  | permissionDenied
  | insufficientRemoteStorage
  | invalidMovement
  | unassigned (n : Byte)
  deriving DecidableEq, Repr

end Sys2Proof
end

