-- ==== Sys2Proof/Machine/State.lean ====
section
/-! DEFINITION. The architectural state of one core (spec/10_state.md rule R20), the model's own fields beside it (the
parameters, the transmit history, and the environment's inputs), the reasons a step can stop, and the state after
reset (R41, spec/70_reset_and_hazards.md rule R260). -/

namespace Sys2Proof.Machine

/-- `LINK_STATE`, the state of the raw link handle (R35). -/
inductive LinkState where
  | closed
  | opened
  | failed
  deriving DecidableEq, Repr

/-- `ARQ_STATE`, which decides what the core does next (R27, R28). -/
inductive ArqState where
  | idle
  | sending
  | awaitingResponse
  | listening
  | succeeded
  | failed
  deriving DecidableEq, Repr

/-- `RESULT`, the status a command leaves (R33). `failedNoAck` is `Failed(NoAcknowledgment)`, `failedTimeout` is
`Failed(Timeout)`. -/
inductive Result where
  | none
  | ok
  | valid (b : Bool)
  | seqValue (s : BitVec 5)
  | frame
  | checksumMismatch (s : Byte) (a : Addr)
  | reject
  | noFrame
  | succeeded
  | received
  | failedNoAck
  | failedTimeout
  | lengthError
  | noTxFrame
  | transportError
  deriving DecidableEq, Repr

/-- Which agent moves next (R9), with what it brings: the core takes its enabled step; the host presents its next
command; the link appends a datagram to `RXQ` (R62); the clock ticks one millisecond (R159); the reset input is
applied (R260); the environment sets the answer the next OPEN gets (R130). -/
inductive Turn where
  | core
  | host
  | link (d : Datagram)
  | tick
  | reset
  | grant (b : Bool)
  deriving DecidableEq, Repr

/-- Why the machine stops. -/
inductive Fault where
  /-- Raised by the transmit step (R152) and by the poll of `AwaitingResponse` (R153) when `TXF` is `none`: the
  rules write `let some(f) = TXF` there and give no other case. Safe: no run reaches it (log entry 8). -/
  | noFrameToSend
  deriving DecidableEq, Repr

/-- Why an instruction has no meaning. -/
inductive Refusal where
  /-- Raised by an arm of `exec` for an instruction that has no meaning yet. Safe. No arm raises it. -/
  | notModelled (mnemonic : String)
  deriving DecidableEq, Repr

/-- One core (R20), then the model's own fields. -/
structure State where
  /-- `LINK_STATE`, 2 bits (R35). -/
  linkState : LinkState
  /-- `SEQ`, 5 bits (R21). -/
  seq : BitVec 5
  /-- `TXF`, the transmit frame buffer (R22, R50 (a)). -/
  txf : Option Frame
  /-- `TXDEST`, 48 bits (R23). -/
  txdest : Addr
  /-- `FILTER` (R23). -/
  filter : Filter
  /-- `ARQ_STATE`, 3 bits (R27). -/
  arqState : ArqState
  /-- `ATTEMPTS`, 3 bits, 0 to 5 (R25). -/
  attempts : BitVec 3
  /-- `TIMER`, 11 bits, 0 to 2000 (R26). -/
  timer : BitVec 11
  /-- `RXF`, the receive frame buffer (R24, R50 (b)). -/
  rxf : Option Frame
  /-- `PEER`, the observed sender address (R24). -/
  peer : Option Addr
  /-- `RESULT` (R31 to R33). -/
  result : Result
  /-- `RXQ`, the receive queue, oldest first (R37, R50 (d)). -/
  rxq : List Datagram
  /-- `TXLOG`, the datagrams emitted, oldest first: the model's history, read by no rule of the core (R39). -/
  txlog : List Datagram
  /-- The parameters (R34); written by nothing (log entry 1). -/
  config : Config
  /-- The environment's answer to an OPEN presented now: the `grant` of R130 (log entry 4). -/
  grant : Bool
  /-- The commands the host has still to present, in order, each the bytes of one transaction (R93, log entry 3). -/
  commands : List (List Byte)
  /-- Whose turn it is, next first (R9, log entry 3). -/
  turns : List Turn
  deriving DecidableEq, Repr

/-- The machine right after reset (R41, R260). `TXDEST`: DESIGN CHOICE 0 (log entry 5), the spec leaves it
unspecified. `config`: DESIGN CHOICE (log entry 2). `grant`: DESIGN CHOICE (log entry 4). Nothing is queued:
the host has presented no command and no turn is scheduled. -/
def State.reset : State :=
  { linkState := .closed
    seq := 0
    txf := none
    txdest := ⟨0, 0, 0, 0, 0, 0⟩
    filter := none
    arqState := .idle
    attempts := 0
    timer := 0
    rxf := none
    peer := none
    result := .none
    rxq := []
    txlog := []
    config := Config.listing
    grant := true
    commands := []
    turns := [] }

end Sys2Proof.Machine
end

