-- ==== Sys2Proof/Machine/Flags.lean ====
section
/-! DEFINITION. The core has no condition codes (spec/10_state.md rule R31). What it computes as a check is the XOR
checksum (spec/30_encoding.md rules R83 and R84), and the only status is `RESULT`, whose codes stand here (R33). -/

namespace Sys2Proof.Machine

/-- `fold_xor(s)`: the exclusive or of all bytes of a string, 0 for the empty one (R11). -/
def foldXor : List Byte → Byte
  | [] => 0
  | b :: bs => b ^^^ foldXor bs

/-- The checksum of the four covered fields: `length ^ sequence ^ type ^ fold_xor(payload)`, each field widened with
zeros to a byte (R83, R84). -/
def checksumOf (length : BitVec 7) (sequence : BitVec 5) (type : BitVec 4) (payload : List Byte) : Byte :=
  length.setWidth 8 ^^^ sequence.setWidth 8 ^^^ type.setWidth 8 ^^^ foldXor payload

/-- The code of a result (R33). -/
def Result.code : Result → Byte
  | .none => 0x00
  | .ok => 0x01
  | .valid _ => 0x02
  | .seqValue _ => 0x03
  | .frame => 0x10
  | .checksumMismatch _ _ => 0x11
  | .reject => 0x12
  | .noFrame => 0x13
  | .succeeded => 0x20
  | .received => 0x21
  | .failedNoAck => 0x30
  | .failedTimeout => 0x31
  | .lengthError => 0x40
  | .noTxFrame => 0x41
  | .transportError => 0x42

end Sys2Proof.Machine
end

