-- ==== Sys2Proof/WellFormed.lean ====
section
/-! DEFINITION. Which terms of `Instr` an encoding can spell: the payload has exactly the bytes its length field
declares (spec/40_frame_codec.md rules R114 and R115, spec/30_encoding.md rule R92). Every other range is a width of
its type. -/

namespace Sys2Proof

/-- A `Frame`'s payload has `length` bytes (R12). -/
def Frame.wf (f : Frame) : Bool := f.payload.length == f.length.toNat

/-- The same of a frame's body on the wire (R92). -/
def Body.wf (b : Body) : Bool := b.payload.length == b.length.toNat

/-- The well-formed instructions. BUILD's `len` may be any byte: above 127 the command is spelled and refused
when it runs (R113, R114). -/
def Instr.wf : Instr → Bool
  | .openHandle => true
  | .closeHandle => true
  | .build _ _ len payload => payload.length == len.toNat
  | .validate f => f.wf
  | .lsend _ => true
  | .lrecv _ => true
  | .rsend _ _ => true
  | .rrecv _ => true
  | .seqrd => true
  | .seqadv => true
  | .ack _ b => b.wf
  | .nack _ b => b.wf
  | .tag2 _ b => b.wf
  | .tag3 _ b => b.wf
  | .tag4 _ b => b.wf
  | .data _ b => b.wf
  | .fileText _ b => b.wf
  | .fileVideo _ b => b.wf
  | .fileImage _ b => b.wf
  | .endOfFile _ b => b.wf
  | .moveRight _ b => b.wf
  | .moveUp _ b => b.wf
  | .moveDown _ b => b.wf
  | .moveLeft _ b => b.wf
  | .tag14 _ b => b.wf
  | .error _ b => b.wf

end Sys2Proof
end

