-- ==== Sys2Proof/Decode.lean ====
section
/-! DEFINITION. Decoding, total on any bytes and rejecting by name, and the encoder: commands (format `CMD`,
spec/30_encoding.md rule R93), and frames in their envelope (formats `ENV` and `FRAME`, rules R81 and R82,
spec/20_memory.md rule R55), with the table's own numbering of the rows (R96). -/

namespace Sys2Proof

/-- Why a byte string spells no instruction. -/
inductive DecodeError where
  /-- no byte at all. -/
  | empty
  /-- a code byte not in the table of R93: "spells no command". -/
  | unknownCode (b : Byte)
  /-- an operand's bytes are not all there. -/
  | truncated
  /-- a `Filter` flag byte other than 0 or 1: "spells no command" (R93). -/
  | badFilterFlag (b : Byte)
  /-- VALIDATE's operand has a field out of range: "spells no VALIDATE command" (R115). -/
  | notAFrame
  /-- a datagram shorter than 19 bytes (R136). -/
  | shortDatagram
  /-- a header with a reserved bit set (R89, R96). -/
  | reservedBits
  /-- a length byte that points past the end of the datagram (R137). -/
  | payloadPastEnd
  deriving DecidableEq, Repr

/-! ## Bytes of the fields -/

/-- Address byte order: byte 0 first (R53). -/
def addrBytes (a : Addr) : List Byte := [a.b0, a.b1, a.b2, a.b3, a.b4, a.b5]

/-- A `Filter` operand: a flag byte and six address bytes; with flag 0 they are "present and not used", and the
encoder writes them as zeros, as the spec's examples do (R93). -/
def filterBytes : Filter → List Byte
  | none => [0, 0, 0, 0, 0, 0, 0]
  | some a => 1 :: addrBytes a

/-- `ETHERTYPE[15:8]`, at offset 12 (R53). -/
def etherHi (t : BitVec 16) : Byte := t.extractLsb' 8 8

/-- `ETHERTYPE[7:0]`, at offset 13 (R53). -/
def etherLo (t : BitVec 16) : Byte := t.extractLsb' 0 8

/-- The 14 envelope bytes (R82). -/
def envelopeBytes (e : Envelope) : List Byte :=
  addrBytes e.dest ++ addrBytes e.src ++ [etherHi e.ethertype, etherLo e.ethertype]

/-- The five header bytes and the payload of a frame of tag `t`, reserved bits zero (R52, R81). -/
def frameBytes (t : BitVec 4) (b : Body) : List Byte :=
  [b.marker, b.length.setWidth 8, b.sequence.setWidth 8, t.setWidth 8, b.checksum] ++ b.payload

/-- The datagram an envelope and a frame make (R55). -/
def datagramBytes (t : BitVec 4) (e : Envelope) (b : Body) : Datagram := envelopeBytes e ++ frameBytes t b

/-! ## Reading operands -/

/-- The first `n` bytes and the rest, when there are `n`. -/
def takeBytes (n : Nat) (bs : List Byte) : Option (List Byte × List Byte) :=
  if n ≤ bs.length then some (bs.take n, bs.drop n) else none

/-- Six bytes as an address (R53). -/
def takeAddr : List Byte → Option (Addr × List Byte)
  | b0 :: b1 :: b2 :: b3 :: b4 :: b5 :: rest => some (⟨b0, b1, b2, b3, b4, b5⟩, rest)
  | _ => none

/-- Seven bytes as a filter: flag 0 or 1, then the address (R93). -/
def takeFilter : List Byte → Except DecodeError (Filter × List Byte)
  | [] => .error .truncated
  | flag :: rest =>
    if flag = 0 ∨ flag = 1 then
      match takeAddr rest with
      | none => .error .truncated
      | some (a, rest') => .ok (if flag = 1 then some a else none, rest')
    else .error (.badFilterFlag flag)

/-- BUILD's operands: `seq`, `typ`, `len`, then `len` payload bytes (R93, R114). -/
def takeBuild : List Byte → Except DecodeError (Instr × List Byte)
  | seq :: typ :: len :: rest =>
    match takeBytes len.toNat rest with
    | none => .error .truncated
    | some (payload, rest') => .ok (.build seq typ len payload, rest')
  | _ => .error .truncated

/-- The field ranges of a frame header: bit 7 of the length byte, bits 7 to 5 of the sequence byte and bits 7 to 4
of the type byte are zero (R81, R89). -/
def headerInRange (l s t : Byte) : Bool := l.toNat ≤ 127 && s.toNat ≤ 31 && t.toNat ≤ 15

/-- VALIDATE's operand: `length, sequence, type, checksum, payload`, all in range (R93, R115). -/
def takeValidate : List Byte → Except DecodeError (Instr × List Byte)
  | l :: s :: t :: ck :: rest =>
    if headerInRange l s t then
      match takeBytes l.toNat rest with
      | none => .error .truncated
      | some (payload, rest') =>
        .ok (.validate ⟨l.setWidth 7, s.setWidth 5, t.setWidth 4, ck, payload⟩, rest')
    else .error .notAFrame
  | _ => .error .truncated

/-- LSEND's operand: `dest` (R93). -/
def takeLsend (bs : List Byte) : Except DecodeError (Instr × List Byte) :=
  match takeAddr bs with
  | none => .error .truncated
  | some (a, rest) => .ok (.lsend a, rest)

/-- LRECV's operand: `filter` (R93). -/
def takeLrecv (bs : List Byte) : Except DecodeError (Instr × List Byte) :=
  match takeFilter bs with
  | .error r => .error r
  | .ok (f, rest) => .ok (.lrecv f, rest)

/-- RSEND's operands: `dest`, then `filter` (R93). -/
def takeRsend (bs : List Byte) : Except DecodeError (Instr × List Byte) :=
  match takeAddr bs with
  | none => .error .truncated
  | some (a, rest) =>
    match takeFilter rest with
    | .error r => .error r
    | .ok (f, rest') => .ok (.rsend a f, rest')

/-- RRECV's operand: `filter` (R93). -/
def takeRrecv (bs : List Byte) : Except DecodeError (Instr × List Byte) :=
  match takeFilter bs with
  | .error r => .error r
  | .ok (f, rest) => .ok (.rrecv f, rest)

/-! ## The two decoders -/

/-- One command from the front of a byte string: the code byte of R93, then its operands. -/
def decodeCommand : List Byte → Except DecodeError (Instr × List Byte)
  | [] => .error .empty
  | code :: rest =>
    if code = 0x01 then .ok (.openHandle, rest)
    else if code = 0x02 then .ok (.closeHandle, rest)
    else if code = 0x10 then takeBuild rest
    else if code = 0x11 then takeValidate rest
    else if code = 0x20 then takeLsend rest
    else if code = 0x21 then takeLrecv rest
    else if code = 0x30 then takeRsend rest
    else if code = 0x31 then takeRrecv rest
    else if code = 0x40 then .ok (.seqrd, rest)
    else if code = 0x41 then .ok (.seqadv, rest)
    else .error (.unknownCode code)

/-- The row of the opcode table a tag selects: one of the 16 tags (R85, R96). -/
def frameInstr (t : BitVec 4) (e : Envelope) (b : Body) : Instr :=
  if t = 0 then .ack e b
  else if t = 1 then .nack e b
  else if t = 2 then .tag2 e b
  else if t = 3 then .tag3 e b
  else if t = 4 then .tag4 e b
  else if t = 5 then .data e b
  else if t = 6 then .fileText e b
  else if t = 7 then .fileVideo e b
  else if t = 8 then .fileImage e b
  else if t = 9 then .endOfFile e b
  else if t = 10 then .moveRight e b
  else if t = 11 then .moveUp e b
  else if t = 12 then .moveDown e b
  else if t = 13 then .moveLeft e b
  else if t = 14 then .tag14 e b
  else .error e b

/-- The frame part of a datagram, after its envelope `e` (R81, R92): the header must pass the table's mask
(R96), and the declared payload must be there. The start marker byte is kept as read; it is tested when the
datagram is parsed (R136). -/
def takeFrame (e : Envelope) : List Byte → Except DecodeError (Instr × List Byte)
  | marker :: l :: s :: t :: ck :: rest =>
    if headerInRange l s t then
      match takeBytes l.toNat rest with
      | none => .error .payloadPastEnd
      | some (payload, rest') =>
        .ok (frameInstr (t.setWidth 4) e ⟨marker, l.setWidth 7, s.setWidth 5, ck, payload⟩, rest')
    else .error .reservedBits
  | _ => .error .shortDatagram

/-- The two ethertype bytes, more significant first, then the frame (R53, R55). -/
def takeTyped (dest src : Addr) : List Byte → Except DecodeError (Instr × List Byte)
  | hi :: lo :: rest => takeFrame ⟨dest, src, hi ++ lo⟩ rest
  | _ => .error .shortDatagram

/-- One datagram: its envelope and the frame in it; what follows the frame is the rest (R55, R57). -/
def decodeDatagram (d : Datagram) : Except DecodeError (Instr × List Byte) :=
  match takeAddr d with
  | none => .error .shortDatagram
  | some (dest, d1) =>
    match takeAddr d1 with
    | none => .error .shortDatagram
    | some (src, d2) => takeTyped dest src d2

/-- The decoder of a port. -/
def decode : Port → List Byte → Except DecodeError (Instr × List Byte)
  | .command, bs => decodeCommand bs
  | .receive, bs => decodeDatagram bs

/-! ## The encoder -/

/-- The type tag, the envelope and the body of an instruction that is a frame (R85). -/
def Instr.asFrame : Instr → Option (BitVec 4 × Envelope × Body)
  | .openHandle => none
  | .closeHandle => none
  | .build _ _ _ _ => none
  | .validate _ => none
  | .lsend _ => none
  | .lrecv _ => none
  | .rsend _ _ => none
  | .rrecv _ => none
  | .seqrd => none
  | .seqadv => none
  | .ack e b => some (0, e, b)
  | .nack e b => some (1, e, b)
  | .tag2 e b => some (2, e, b)
  | .tag3 e b => some (3, e, b)
  | .tag4 e b => some (4, e, b)
  | .data e b => some (5, e, b)
  | .fileText e b => some (6, e, b)
  | .fileVideo e b => some (7, e, b)
  | .fileImage e b => some (8, e, b)
  | .endOfFile e b => some (9, e, b)
  | .moveRight e b => some (10, e, b)
  | .moveUp e b => some (11, e, b)
  | .moveDown e b => some (12, e, b)
  | .moveLeft e b => some (13, e, b)
  | .tag14 e b => some (14, e, b)
  | .error e b => some (15, e, b)

/-- Where an instruction comes from: frames from the receive port, commands from the command port. -/
def Instr.port (i : Instr) : Port := if i.asFrame.isSome then .receive else .command

/-- The bytes of an instruction, from the encoding tables of R81, R82, R85 and R93. -/
def encode : Instr → List Byte
  | .openHandle => [0x01]
  | .closeHandle => [0x02]
  | .build seq typ len payload => [0x10, seq, typ, len] ++ payload
  | .validate f =>
    [0x11, f.length.setWidth 8, f.sequence.setWidth 8, f.type.setWidth 8, f.checksum] ++ f.payload
  | .lsend dest => 0x20 :: addrBytes dest
  | .lrecv filter => 0x21 :: filterBytes filter
  | .rsend dest filter => 0x30 :: (addrBytes dest ++ filterBytes filter)
  | .rrecv filter => 0x31 :: filterBytes filter
  | .seqrd => [0x40]
  | .seqadv => [0x41]
  | .ack e b => datagramBytes 0 e b
  | .nack e b => datagramBytes 1 e b
  | .tag2 e b => datagramBytes 2 e b
  | .tag3 e b => datagramBytes 3 e b
  | .tag4 e b => datagramBytes 4 e b
  | .data e b => datagramBytes 5 e b
  | .fileText e b => datagramBytes 6 e b
  | .fileVideo e b => datagramBytes 7 e b
  | .fileImage e b => datagramBytes 8 e b
  | .endOfFile e b => datagramBytes 9 e b
  | .moveRight e b => datagramBytes 10 e b
  | .moveUp e b => datagramBytes 11 e b
  | .moveDown e b => datagramBytes 12 e b
  | .moveLeft e b => datagramBytes 13 e b
  | .tag14 e b => datagramBytes 14 e b
  | .error e b => datagramBytes 15 e b

/-! ## The numbering of spec/opcode_table.json -/

/-- `n` bytes of `w`, byte 0 in bits 7 to 0. -/
def lowBytes : Nat → Nat → List Byte
  | 0, _ => []
  | n + 1, w => BitVec.ofNat 8 w :: lowBytes n (w / 256)

/-- The port a row of the table belongs to: the rows of format `FRAME` are 40 bits wide, the rows of format `CMD`
8 bits (R96). -/
def tablePort (nbits : Nat) : Port := if nbits = 40 then .receive else .command

/-- How many bytes of zeros stand after a row's bits, enough for every operand the row can have: a `FRAME` row's
payload has the bytes its length field declares; after a lone code byte at most 13 operand bytes are read, all zero
(R93); after more bits of a command, at most BUILD's operands. -/
def tablePadding (nbits w : Nat) : Nat :=
  match tablePort nbits with
  | .receive => w / 2 ^ 24 % 128
  | .command => if nbits ≤ 8 then 13 else 258

/-- A row's bits laid out as the hardware stores them, every byte above them zero. A `FRAME` row is the 40-bit
header "with frame byte 0 most significant" (R81) at datagram offset 14, here in an envelope of zeros (DESIGN
CHOICE, log entry 9); a `CMD` row is the code byte and what follows it. -/
def tableBytes (nbits w : Nat) : List Byte :=
  match tablePort nbits with
  | .receive => List.replicate 14 0 ++ (lowBytes 5 w).reverse ++ List.replicate (tablePadding nbits w) 0
  | .command => lowBytes (nbits / 8) w ++ List.replicate (tablePadding nbits w) 0

/-- The bytes of exactly the one instruction that `tableBytes` begins with; all of them where it begins with
none. -/
def tableWordBytes (nbits w : Nat) : List Byte :=
  match decode (tablePort nbits) (tableBytes nbits w) with
  | .ok (_, rest) => (tableBytes nbits w).take ((tableBytes nbits w).length - rest.length)
  | .error _ => tableBytes nbits w

/-- The instruction the decoder reads from a row's bits `w`, numbered as the table numbers them. -/
def decodeTableWord (nbits w : Nat) : Option Instr :=
  match decode (tablePort nbits) (tableBytes nbits w) with
  | .ok (i, _) => some i
  | .error _ => none

end Sys2Proof
end

