-- ==== Sys2Proof/Machine/Operands.lean ====
section
/-! DEFINITION. The operand forms: bytes and addresses at an offset of a datagram (spec/20_memory.md rule R55), the
destination filter, the bytes of the two frame buffers (R50), and what the type tag and the error code name
(spec/30_encoding.md rules R85, R87 and R91). -/

namespace Sys2Proof.Machine

/-- `d[i]`: byte `i` of a byte string. Every rule that reads one has tested that it is there (R59); past the end
this answers 0, which no rule uses. -/
def byteAt (d : Datagram) (i : Nat) : Byte := d.getD i 0

/-- `d[i..i+5]` as an address (R53). -/
def addrAt (d : Datagram) (i : Nat) : Addr :=
  ⟨byteAt d i, byteAt d (i + 1), byteAt d (i + 2), byteAt d (i + 3), byteAt d (i + 4), byteAt d (i + 5)⟩

/-- `d[19..18+L]`: the payload bytes a length byte `L` declares (R55, R57). -/
def payloadAt (d : Datagram) (len : Nat) : List Byte := (d.drop 19).take len

/-- The destination test: none is made without a filter (R136). -/
def filterPasses (filter : Filter) (dest : Addr) : Bool :=
  match filter with
  | none => true
  | some a => dest == a

/-- `TXF.payload[i]` and `RXF.payload[i]`: byte `i` of a frame buffer, none past the end or of an empty buffer
(R50 (a) and (b)). -/
def bufferByte (buf : Option Frame) (i : Nat) : Option Byte :=
  match buf with
  | none => none
  | some f => f.payload[i]?

/-- The name of a type field (R85): total on the 16 tags, with 2, 3, 4 and 14 unassigned (R87). -/
def tagOf (t : BitVec 4) : Tag :=
  if t = 0 then .ack
  else if t = 1 then .nack
  else if t = 5 then .data
  else if t = 6 then .fileText
  else if t = 7 then .fileVideo
  else if t = 8 then .fileImage
  else if t = 9 then .endOfFile
  else if t = 10 then .moveRight
  else if t = 11 then .moveUp
  else if t = 12 then .moveDown
  else if t = 13 then .moveLeft
  else if t = 15 then .error
  else .unassigned t

/-- The code an ERROR frame of one payload byte carries (R91); for the host, the core does not read it. -/
def errorCodeOf (f : Frame) : Option ErrorCode :=
  if f.type = 15 then
    match f.payload with
    | [c] =>
      if c = 0 then some .permissionDenied
      else if c = 1 then some .insufficientRemoteStorage
      else if c = 2 then some .invalidMovement
      else some (.unassigned c)
    | _ => none
  else none

end Sys2Proof.Machine
end

