-- ==== Sys2Proof/Machine/Ops.lean ====
section
/-! DEFINITION. The named operations over the registers, the queue and the transmit port. The core has no traps: what
stands in the place of taking an exception is the completion of a command, one operation here (`finish`, and `endArq`
for the ARQ commands), and there is no return from one (spec/60_exceptions.md rules R235 and R237). -/

namespace Sys2Proof.Machine

/-- The core is busy in `Sending`, `AwaitingResponse` and `Listening` (R29). -/
def State.busy (s : State) : Bool :=
  match s.arqState with
  | .sending | .awaitingResponse | .listening => true
  | .idle | .succeeded | .failed => false

/-- The core is ready in the other three states (R29). -/
def State.ready (s : State) : Bool := !s.busy

/-- The states that wait for a datagram under a running deadline (R26, R232). -/
def State.waiting (s : State) : Bool :=
  match s.arqState with
  | .awaitingResponse | .listening => true
  | .idle | .sending | .succeeded | .failed => false

/-- A poll may take a datagram: waiting, with the deadline not yet elapsed (R153, R172, R234 (a)). -/
def State.polling (s : State) : Bool := s.waiting && s.timer != 0

/-- The completion of a command that is over in the step that accepts it: `RESULT` is written, nothing else
(R30, R31, R235). -/
def State.finish (r : Result) (s : State) : State := { s with result := r }

/-- The completion of a running ARQ command: `RESULT` and the final state (R235). -/
def State.endArq (r : Result) (a : ArqState) (s : State) : State := { s with result := r, arqState := a }

/-- `Emit(d)`: the datagram goes to the link and into `TXLOG` (R11). -/
def State.emit (d : Datagram) (s : State) : State := { s with txlog := s.txlog ++ [d] }

/-- There is room in `RXQ`: fewer than `RXQ_DEPTH` datagrams, always so when it is unbounded (R37). -/
def State.hasRoom (s : State) : Bool :=
  match s.config.rxqDepth with
  | none => true
  | some n => decide (s.rxq.length < n)

/-- The link appends a datagram, only while the handle is open and there is room; otherwise it is lost (R37, R62,
R281). -/
def State.deliver (d : Datagram) (s : State) : State :=
  if s.linkState = .opened ∧ s.hasRoom = true then { s with rxq := s.rxq ++ [d] } else s

/-- The clock ticks: `TIMER` loses one millisecond while it runs, in `AwaitingResponse` and `Listening`; otherwise
the clock has no effect (R26, R159, R175). -/
def State.tick (s : State) : State := if s.polling then { s with timer := s.timer - 1 } else s

/-- `retry()`, the retry decision (R156). The comparison is with the new value of `ATTEMPTS`. -/
def State.retry (s : State) : State :=
  if s.attempts.toNat + 1 < maxAttempts then
    { s with attempts := s.attempts + 1, arqState := .sending }
  else { s with attempts := s.attempts + 1, arqState := .failed, result := .failedNoAck }

/-- The reset input (R260 to R262): every register to its reset value, from any state. The parameters (R261),
`TXLOG` (R39, R261) and what the environment holds are kept. -/
def State.resetCore (s : State) : State :=
  { State.reset with
    txlog := s.txlog, config := s.config, grant := s.grant, commands := s.commands, turns := s.turns }

/-- A command is accepted when the core is ready; while it is busy "the host has no step", and nothing changes
(R30, R239). -/
def whenReady (s : State) (effect : State → State) : Host.Outcome State Fault Refusal :=
  if s.ready then .next (effect s) else .next s

/-- The link commands test `LINK_STATE` first: without an open handle they complete at once with
`TransportError` (R132). -/
def needLink (s : State) (effect : State → State) : State :=
  if s.linkState = .opened then effect s else s.finish .transportError

/-- The sending commands test `TXF` next: without a frame they complete with `NoTxFrame` (R223, R234 (e)). -/
def needFrame (s : State) (effect : Frame → State → State) : State :=
  match s.txf with
  | none => s.finish .noTxFrame
  | some f => effect f s

end Sys2Proof.Machine
end

