-- ==== Sys2Proof/Machine/Codec.lean ====
section
/-! DEFINITION. The frame codec: the pure functions `build` and `validate`, and the commands BUILD and VALIDATE
(spec/40_frame_codec.md rules R110 to R115). -/

namespace Sys2Proof.Machine

/-- `build(seq, typ, payload, len)`, which masks `seq` to 5 bits and `typ` to 4 bits and computes the checksum over
the masked fields (R83, R84, R111). The spec's `build` is a partial function, not defined for `len > 127` (R113) or for a
payload of another length than `len` (R111). Here it is total: that outside the domain it answers the frame with `length`
the low 7 bits of `len` and the payload as given is the model's choice (DESIGN CHOICE, log entry 23), a value no step uses,
since `execBuild` tests `len` first and no bytes spell another payload length. -/
def build (seq typ : Byte) (payload : List Byte) (len : Byte) : Frame :=
  { length := len.setWidth 7
    sequence := seq.setWidth 5
    type := typ.setWidth 4
    checksum := checksumOf (len.setWidth 7) (seq.setWidth 5) (typ.setWidth 4) payload
    payload := payload }

/-- `validate(f)`: recomputes the checksum and compares; it tests nothing else (R112). -/
def validate (f : Frame) : Bool := f.checksum == checksumOf f.length f.sequence f.type f.payload

/-- BUILD (R114): with `len > 127` it builds nothing and leaves `TXF` unchanged (R113). -/
def execBuild (seq typ len : Byte) (payload : List Byte) (s : State) : Host.Outcome State Fault Refusal :=
  whenReady s fun s =>
    if len.toNat > maxPayload then s.finish .lengthError
    else State.finish .ok { s with txf := some (build seq typ payload len) }

/-- VALIDATE (R115): `RESULT` only. -/
def execValidate (f : Frame) (s : State) : Host.Outcome State Fault Refusal :=
  whenReady s (State.finish (.valid (validate f)))

end Sys2Proof.Machine
end

