-- ==== Sys2Proof/Machine/Link.lean ====
section
/-! DEFINITION. The link handle and the link transport: `wrap`, `intact` and `unwrap`, and the commands OPEN, CLOSE,
LSEND and LRECV (spec/41_link_transport.md rules R130 to R139). -/

namespace Sys2Proof.Machine

/-- The verdicts of `unwrap` (R135). -/
inductive Verdict where
  | reject
  | mismatch (s : Byte) (src : Addr)
  | accept (f : Frame) (src : Addr)
  deriving DecidableEq, Repr

/-- `wrap(f, dest)` (R134): the source address is always `SRC_PATTERN`, and the checksum is sent as stored. -/
def wrap (c : Config) (f : Frame) (dest : Addr) : Datagram :=
  addrBytes dest ++ addrBytes c.srcPattern ++ [etherHi c.ethertype, etherLo c.ethertype]
    ++ [c.startMarker, f.length.setWidth 8, f.sequence.setWidth 8, f.type.setWidth 8, f.checksum] ++ f.payload

/-- `intact(d)`, for a datagram of at least 19 bytes (R137): the three range tests, the presence of every declared
payload byte, and the checksum. -/
def intact (d : Datagram) : Bool :=
  decide ((byteAt d 15).toNat ≤ 127)
    && decide ((byteAt d 16).toNat ≤ 31)
    && decide ((byteAt d 17).toNat ≤ 15)
    && decide (minDatagram + (byteAt d 15).toNat ≤ d.length)
    && byteAt d 18 == (byteAt d 15 ^^^ byteAt d 16 ^^^ byteAt d 17 ^^^ foldXor (payloadAt d (byteAt d 15).toNat))

/-- The reject tests of R136: too short, wrong ethertype, filtered destination, no start marker. -/
def rejected (c : Config) (d : Datagram) (filter : Filter) : Bool :=
  decide (d.length < minDatagram)
    || byteAt d 12 != etherHi c.ethertype
    || byteAt d 13 != etherLo c.ethertype
    || !filterPasses filter (addrAt d 0)
    || byteAt d 14 != c.startMarker

/-- The frame in an intact datagram (R136). -/
def frameOf (d : Datagram) : Frame :=
  { length := (byteAt d 15).setWidth 7
    sequence := (byteAt d 16).setWidth 5
    type := (byteAt d 17).setWidth 4
    checksum := byteAt d 18
    payload := payloadAt d (byteAt d 15).toNat }

/-- `unwrap(d, filter)` (R135, R136): the reject tests come first (R234 (c)); the sequence of a mismatch is the raw
byte; the source is bytes 6 to 11. -/
def unwrap (c : Config) (d : Datagram) (filter : Filter) : Verdict :=
  if rejected c d filter then .reject
  else if intact d then .accept (frameOf d) (addrAt d 6)
  else .mismatch (byteAt d 16) (addrAt d 6)

/-- OPEN (R130): the environment supplies the grant; only `Closed` uses it. -/
def execOpen (s : State) : Host.Outcome State Fault Refusal :=
  whenReady s fun s =>
    match s.linkState with
    | .closed =>
      if s.grant then State.finish .ok { s with linkState := .opened, rxq := [] }
      else State.finish .transportError { s with linkState := .failed, rxq := [] }
    | .opened => s.finish .ok
    | .failed => s.finish .transportError

/-- CLOSE (R131): an open handle is closed and `RXQ` emptied; nothing is sent. -/
def execClose (s : State) : Host.Outcome State Fault Refusal :=
  whenReady s fun s =>
    match s.linkState with
    | .opened => State.finish .ok { s with linkState := .closed, rxq := [] }
    | .closed => s.finish .ok
    | .failed => s.finish .transportError

/-- LSEND (R138): one unreliable transmission of `TXF`. -/
def execLsend (dest : Addr) (s : State) : Host.Outcome State Fault Refusal :=
  whenReady s fun s =>
    needLink s fun s =>
      needFrame s fun f s => (s.emit (wrap s.config f dest)).finish .ok

/-- What LRECV writes for a verdict (R139): `RXF` and `PEER` on acceptance only (R24). -/
def takePolled (v : Verdict) (s : State) : State :=
  match v with
  | .reject => s.finish .reject
  | .mismatch q a => s.finish (.checksumMismatch q a)
  | .accept f a => State.finish .frame { s with rxf := some f, peer := some a }

/-- LRECV (R139): one poll of the queue, which never waits and never replies. -/
def execLrecv (filter : Filter) (s : State) : Host.Outcome State Fault Refusal :=
  whenReady s fun s =>
    needLink s fun s =>
      match s.rxq with
      | [] => s.finish .noFrame
      | d :: rest => takePolled (unwrap s.config d filter) { s with rxq := rest }

end Sys2Proof.Machine
end

