-- ==== Sys2Proof/Machine/Arq.lean ====
section
/-! DEFINITION. The ARQ engine: the acceptance of RSEND and RRECV, and their steps (spec/42_arq_send.md rules R151 to
R160, spec/43_arq_receive.md rules R170 to R177). -/

namespace Sys2Proof.Machine

/-- RSEND, the acceptance step (R151). `RXQ` is not emptied, `SEQ` is not read. -/
def execRsend (dest : Addr) (filter : Filter) (s : State) : Host.Outcome State Fault Refusal :=
  whenReady s fun s =>
    needLink s fun s =>
      needFrame s fun _ s =>
        State.endArq .none .sending { s with txdest := dest, filter := filter, attempts := 0 }

/-- RRECV, the acceptance step (R170). The deadline is loaded here and by nothing else during the command. -/
def execRrecv (filter : Filter) (s : State) : Host.Outcome State Fault Refusal :=
  whenReady s fun s =>
    needLink s fun s =>
      State.endArq .none .listening { s with filter := filter, timer := BitVec.ofNat 11 timeoutMs }

/-- S-transmit (R152): the frame goes out, the deadline starts. -/
def sTransmit (s : State) : Host.Outcome State Fault Refusal :=
  match s.txf with
  | none => .fault .noFrameToSend
  | some f =>
    .next { s.emit (wrap s.config f s.txdest) with
      timer := BitVec.ofNat 11 timeoutMs, arqState := .awaitingResponse }

/-- What S-poll does with a verdict (R153, R158, R160), `f` being the frame in `TXF`: a matching ACK ends the command,
a matching NACK ends the attempt, anything else changes nothing. -/
def takeResponse (v : Verdict) (f : Frame) (s : State) : State :=
  match v with
  | .accept r _ =>
    if r.sequence = f.sequence ∧ r.type = tAck then s.endArq .succeeded .succeeded
    else if r.sequence = f.sequence ∧ r.type = tNack then s.retry
    else s
  | .mismatch _ _ => s
  | .reject => s

/-- S-poll on the popped datagram `d` (R153). -/
def sPoll (d : Datagram) (s : State) : Host.Outcome State Fault Refusal :=
  match s.txf with
  | none => .fault .noFrameToSend
  | some f => .next (takeResponse (unwrap s.config d s.filter) f s)

/-- The reply of RRECV: an ACK or NACK of length 0, built by `build`, to the observed source (R88, R172, R173). -/
def reply (seq : Byte) (tag : BitVec 4) (dest : Addr) (s : State) : State :=
  s.emit (wrap s.config (build seq (tag.setWidth 8) [] 0) dest)

/-- What R-poll does with a verdict (R172 to R174): an accepted frame is acknowledged and delivered, a mismatch gets a
NACK, a reject nothing. -/
def takeRequest (v : Verdict) (s : State) : State :=
  match v with
  | .accept f a =>
    State.endArq .received .succeeded
      { reply (f.sequence.setWidth 8) tAck a s with rxf := some f, peer := some a }
  | .mismatch q a => reply q tNack a s
  | .reject => s

/-- R-poll on the popped datagram `d` (R172). -/
def rPoll (d : Datagram) (s : State) : Host.Outcome State Fault Refusal :=
  .next (takeRequest (unwrap s.config d s.filter) s)

/-- S-timeout (R155). -/
def sTimeout (s : State) : Host.Outcome State Fault Refusal := .next s.retry

/-- R-timeout (R175): nothing is sent, `RXF` and `PEER` are unchanged. -/
def rTimeout (s : State) : Host.Outcome State Fault Refusal := .next (s.endArq .failedTimeout .failed)

/-- The poll of the running ARQ command on a datagram already taken from the queue; in the other states no poll is
enabled and nothing changes. -/
def pollDatagram (d : Datagram) (s : State) : Host.Outcome State Fault Refusal :=
  match s.arqState with
  | .awaitingResponse => sPoll d s
  | .listening => rPoll d s
  | .idle => .next s
  | .sending => .next s
  | .succeeded => .next s
  | .failed => .next s

/-- A datagram presented to the core (R232): a polling core takes it; otherwise it waits in `RXQ`, or is lost where
the queue cannot take it (R37). -/
def presentDatagram (d : Datagram) (s : State) : Host.Outcome State Fault Refusal :=
  if s.polling then pollDatagram d s else .next (s.deliver d)

end Sys2Proof.Machine
end

