-- ==== Sys2Proof/Machine/Frames.lean ====
section
/-! DEFINITION. The meanings of the sixteen frames (spec/30_encoding.md rules R85 to R88): the datagram with this frame
in this envelope is presented to the core. A core that is polling takes it, with the effect its tag has there
(spec/42_arq_send.md rules R153 to R160, spec/43_arq_receive.md rules R172 to R177); a core that is not leaves it to wait in
`RXQ` (spec/60_exceptions.md rule R232, log entry 6). -/

namespace Sys2Proof.Machine

/-- A frame of tag `t` presented to the core: the shared operation of the sixteen meanings. -/
def presentFrame (t : BitVec 4) (e : Envelope) (b : Body) (s : State) : Host.Outcome State Fault Refusal :=
  presentDatagram (datagramBytes t e b) s

/-- ACK, tag 0: positive acknowledgment (R85, R86). -/
def execAck (e : Envelope) (b : Body) (s : State) : Host.Outcome State Fault Refusal := presentFrame 0 e b s

/-- NACK, tag 1: negative acknowledgment (R85, R86). -/
def execNack (e : Envelope) (b : Body) (s : State) : Host.Outcome State Fault Refusal := presentFrame 1 e b s

/-- TAG2, tag 2: no name in the source, carried like any application tag (R87). -/
def execTag2 (e : Envelope) (b : Body) (s : State) : Host.Outcome State Fault Refusal := presentFrame 2 e b s

/-- TAG3, tag 3: no name in the source, carried like any application tag (R87). -/
def execTag3 (e : Envelope) (b : Body) (s : State) : Host.Outcome State Fault Refusal := presentFrame 3 e b s

/-- TAG4, tag 4: no name in the source, carried like any application tag (R87). -/
def execTag4 (e : Envelope) (b : Body) (s : State) : Host.Outcome State Fault Refusal := presentFrame 4 e b s

/-- DATA, tag 5: one chunk of a resource (R85). -/
def execData (e : Envelope) (b : Body) (s : State) : Host.Outcome State Fault Refusal := presentFrame 5 e b s

/-- FILE_TEXT, tag 6: metadata frame, content category text (R85). -/
def execFileText (e : Envelope) (b : Body) (s : State) : Host.Outcome State Fault Refusal := presentFrame 6 e b s

/-- FILE_VIDEO, tag 7: metadata frame, content category video (R85). -/
def execFileVideo (e : Envelope) (b : Body) (s : State) : Host.Outcome State Fault Refusal := presentFrame 7 e b s

/-- FILE_IMAGE, tag 8: metadata frame, content category image (R85). -/
def execFileImage (e : Envelope) (b : Body) (s : State) : Host.Outcome State Fault Refusal := presentFrame 8 e b s

/-- END_OF_FILE, tag 9: end-of-transfer sentinel (R85). -/
def execEndOfFile (e : Envelope) (b : Body) (s : State) : Host.Outcome State Fault Refusal := presentFrame 9 e b s

/-- MOVE_RIGHT, tag 10: movement direction (R85). -/
def execMoveRight (e : Envelope) (b : Body) (s : State) : Host.Outcome State Fault Refusal := presentFrame 10 e b s

/-- MOVE_UP, tag 11: movement direction (R85). -/
def execMoveUp (e : Envelope) (b : Body) (s : State) : Host.Outcome State Fault Refusal := presentFrame 11 e b s

/-- MOVE_DOWN, tag 12: movement direction (R85). -/
def execMoveDown (e : Envelope) (b : Body) (s : State) : Host.Outcome State Fault Refusal := presentFrame 12 e b s

/-- MOVE_LEFT, tag 13: movement direction (R85). -/
def execMoveLeft (e : Envelope) (b : Body) (s : State) : Host.Outcome State Fault Refusal := presentFrame 13 e b s

/-- TAG14, tag 14: no name in the source, carried like any application tag (R87). -/
def execTag14 (e : Envelope) (b : Body) (s : State) : Host.Outcome State Fault Refusal := presentFrame 14 e b s

/-- ERROR, tag 15: explicit application error, opaque to the core (R86, R91). -/
def execError (e : Envelope) (b : Body) (s : State) : Host.Outcome State Fault Refusal := presentFrame 15 e b s

end Sys2Proof.Machine
end

