-- ==== Sys2Proof/Machine/Sequence.lean ====
section
/-! DEFINITION. The sequence number tracker: SEQRD and SEQADV (spec/44_sequence_tracker.md rules R190 and R191). -/

namespace Sys2Proof.Machine

/-- SEQRD (R190): `RESULT` only. -/
def execSeqrd (s : State) : Host.Outcome State Fault Refusal :=
  whenReady s fun s => s.finish (.seqValue s.seq)

/-- SEQADV (R191): the sum on 5 bits, the carry out of bit 4 dropped. -/
def execSeqadv (s : State) : Host.Outcome State Fault Refusal :=
  whenReady s fun s => State.finish .ok { s with seq := s.seq + 1 }

end Sys2Proof.Machine
end

