-- ==== Sys2Proof/Machine/Dispatch.lean ====
section
/-! DEFINITION. The dispatch: one arm per instruction, each one call of its meaning. -/

namespace Sys2Proof.Machine

def exec (i : Instr) (s : State) : Host.Outcome State Fault Refusal :=
  match i with
  | .openHandle => Sys2Proof.Machine.execOpen s
  | .closeHandle => Sys2Proof.Machine.execClose s
  | .build seq typ len payload => Sys2Proof.Machine.execBuild seq typ len payload s
  | .validate f => Sys2Proof.Machine.execValidate f s
  | .lsend dest => Sys2Proof.Machine.execLsend dest s
  | .lrecv filter => Sys2Proof.Machine.execLrecv filter s
  | .rsend dest filter => Sys2Proof.Machine.execRsend dest filter s
  | .rrecv filter => Sys2Proof.Machine.execRrecv filter s
  | .seqrd => Sys2Proof.Machine.execSeqrd s
  | .seqadv => Sys2Proof.Machine.execSeqadv s
  | .ack e b => Sys2Proof.Machine.execAck e b s
  | .nack e b => Sys2Proof.Machine.execNack e b s
  | .tag2 e b => Sys2Proof.Machine.execTag2 e b s
  | .tag3 e b => Sys2Proof.Machine.execTag3 e b s
  | .tag4 e b => Sys2Proof.Machine.execTag4 e b s
  | .data e b => Sys2Proof.Machine.execData e b s
  | .fileText e b => Sys2Proof.Machine.execFileText e b s
  | .fileVideo e b => Sys2Proof.Machine.execFileVideo e b s
  | .fileImage e b => Sys2Proof.Machine.execFileImage e b s
  | .endOfFile e b => Sys2Proof.Machine.execEndOfFile e b s
  | .moveRight e b => Sys2Proof.Machine.execMoveRight e b s
  | .moveUp e b => Sys2Proof.Machine.execMoveUp e b s
  | .moveDown e b => Sys2Proof.Machine.execMoveDown e b s
  | .moveLeft e b => Sys2Proof.Machine.execMoveLeft e b s
  | .tag14 e b => Sys2Proof.Machine.execTag14 e b s
  | .error e b => Sys2Proof.Machine.execError e b s

end Sys2Proof.Machine
end

