-- ==== Sys2Proof/Machine/Agents.lean ====
section
/-! DEFINITION. The moves of the agents (spec/00_scope.md rule R9): the host presents a command, the core takes its
enabled step, the link delivers, the clock ticks, the reset input is applied; and where an instruction's bytes are
placed so that the next step runs it. -/

namespace Sys2Proof.Machine

/-- The command one transaction of the command port spells: exactly its bytes, no more and no fewer (R93, log
entry 10). -/
def commandOf (bytes : List Byte) : Option Instr :=
  match decodeCommand bytes with
  | .ok (i, []) => some i
  | .ok (_, _ :: _) => none
  | .error _ => none

/-- The host's move (R30): with the core ready it presents its next command. Bytes that spell no command are not
accepted and change no state of the core (R93). With the core busy, or no command left, it has no step. -/
def hostTurn (s : State) : Host.Outcome State Fault Refusal :=
  if s.ready then
    match s.commands with
    | [] => .next s
    | bytes :: later =>
      match commandOf bytes with
      | some i => exec i { s with commands := later }
      | none => .next { s with commands := later }
  else .next s

/-- The poll step (R153, R172): the oldest datagram is popped; what spells a frame of the table runs as that
instruction, and what does not (too short, or a candidate the mask of R96 refuses) is classified all the same. -/
def pollTurn (s : State) : Host.Outcome State Fault Refusal :=
  match s.rxq with
  | [] => .next s
  | d :: rest =>
    match decodeDatagram d with
    | .ok (i, _) => exec i { s with rxq := rest }
    | .error _ => pollDatagram d { s with rxq := rest }

/-- The core's move: the one step its state enables, if any. At `TIMER = 0` the timeout step and not the poll step
(R155, R175, R234 (a)). -/
def coreTurn (s : State) : Host.Outcome State Fault Refusal :=
  match s.arqState with
  | .sending => sTransmit s
  | .awaitingResponse => if s.timer = 0 then sTimeout s else pollTurn s
  | .listening => if s.timer = 0 then rTimeout s else pollTurn s
  | .idle => .next s
  | .succeeded => .next s
  | .failed => .next s

/-- The core has a step of its own. -/
def State.coreEnabled (s : State) : Bool :=
  match s.arqState with
  | .sending => true
  | .awaitingResponse | .listening => s.timer == 0 || !s.rxq.isEmpty
  | .idle | .succeeded | .failed => false

/-- Who moves when no turn is scheduled (log entry 3): the host while the core is ready; the core while it has a
step; otherwise the clock, for a running timer is ticked in the end (R161). -/
def defaultTurn (s : State) : Turn :=
  if s.ready then .host else if s.coreEnabled then .core else .tick

/-- One agent's move. -/
def turnStep (t : Turn) (s : State) : Host.Outcome State Fault Refusal :=
  match t with
  | .core => coreTurn s
  | .host => hostTurn s
  | .link d => .next (s.deliver d)
  | .tick => .next s.tick
  | .reset => .next s.resetCore
  | .grant b => .next { s with grant := b }

/-- The next scheduled turn, taken from the schedule; the default where none is scheduled. -/
def nextTurn (s : State) : Turn × State :=
  match s.turns with
  | [] => (defaultTurn s, s)
  | t :: later => (t, { s with turns := later })

/-- A command placed as the host's next, with the host to move and the core ready for it. -/
def placeCommand (bytes : List Byte) (s : State) : State :=
  { s with
    arqState := if s.ready then s.arqState else .idle
    commands := bytes :: s.commands
    turns := .host :: s.turns }

/-- A datagram placed as the oldest of `RXQ`, with the core to move and polling: a core that is polling already keeps
its command, any other listens with the deadline just loaded and no filter. -/
def placeDatagram (d : Datagram) (s : State) : State :=
  { s with
    linkState := .opened
    arqState := if s.polling then s.arqState else .listening
    timer := if s.polling then s.timer else BitVec.ofNat 11 timeoutMs
    filter := if s.polling then s.filter else none
    result := if s.polling then s.result else .none
    rxq := d :: s.rxq
    turns := .core :: s.turns }

/-- A row's bits placed where the next step fetches its instruction (log entry 9). -/
def placeWord (s : State) (nbits w : Nat) : State :=
  match tablePort nbits with
  | .command => placeCommand (tableWordBytes nbits w) s
  | .receive => placeDatagram (tableWordBytes nbits w) s

end Sys2Proof.Machine
end

