-- ==== Sys2Proof/Machine/Step.lean ====
section
/-! DEFINITION. One step of the machine: one move of one agent (spec/00_scope.md rule R9, spec/20_memory.md rule
R60). -/

namespace Sys2Proof.Machine

/-- One step: the agent whose turn it is moves. -/
def step (s : State) : Host.Outcome State Fault Refusal :=
  turnStep (nextTurn s).1 (nextTurn s).2

/-- `s` with the instruction of the row's bits `w` placed so that the next step runs it. -/
def State.withFetchWord (s : State) (nbits w : Nat) : State := placeWord s nbits w

end Sys2Proof.Machine
end

