-- ==== Sys2Proof/Machine/Exchange.lean ====
section
/-! DEFINITION. An exchange: two cores that share nothing but a link (spec/60_exceptions.md rule R243), and the two
restricted links of spec/20_memory.md rule R63 between them, the *faithful link* and the *scripted link*. Each core moves by
`turnStep`, exactly as it does alone, but for one turn: what the link appends comes from a `Wire` and from nowhere else. -/

namespace Sys2Proof.Machine

/-- Which of the two cores. -/
inductive Side where
  | a
  | b
  deriving DecidableEq, Repr

/-- The peer. -/
def Side.other : Side → Side
  | .a => .b
  | .b => .a

/-- What a scripted link does with one emitted datagram (R63): it passes it on as the faithful link does, or one of the
behaviours of R62. -/
inductive LinkAct where
  /-- appended unchanged, once. -/
  | pass
  /-- lost. -/
  | drop
  /-- appended with byte `offset` changed to `b`. -/
  | corrupt (offset : Nat) (b : Byte)
  /-- these are appended in its place: duplicates, datagrams of third stations beside it. -/
  | replace (ds : List Datagram)
  /-- kept, to be appended when the schedule says so, in any order and however many ticks later. -/
  | hold
  deriving DecidableEq, Repr

/-- One direction of the link. -/
structure Wire where
  /-- Emitted and not yet appended, oldest first: to be appended in this order before the sender's next tick. -/
  waiting : List Datagram
  /-- What the exceptions let the link append at a moment of the schedule's choice: datagrams held back, and at the start
  those it will bring from elsewhere. -/
  held : List Datagram
  /-- What happens to the datagrams still to be emitted, the next one first; past its end each is passed on. -/
  script : List LinkAct
  /-- What the link has offered to the receiver, oldest first: history, read by no rule. -/
  brought : List Datagram
  deriving DecidableEq, Repr

/-- The direction has no exception stated: it is a direction of the faithful link (R63). -/
def Wire.faithful (w : Wire) : Prop := w.script = [] ∧ w.held = []

/-- One emitted datagram under one act of the link. -/
def LinkAct.on (act : LinkAct) (d : Datagram) (w : Wire) : Wire :=
  match act with
  | .pass => { w with waiting := w.waiting ++ [d] }
  | .drop => w
  | .corrupt offset b => { w with waiting := w.waiting ++ [d.set offset b] }
  | .replace ds => { w with waiting := w.waiting ++ ds }
  | .hold => { w with held := w.held ++ [d] }

/-- A datagram is emitted onto the link: the script's next act, or passed on where the script has none (R63). -/
def Wire.send (d : Datagram) (w : Wire) : Wire :=
  match w.script with
  | [] => LinkAct.pass.on d w
  | act :: rest => act.on d { w with script := rest }

/-- Datagrams emitted one after another. -/
def Wire.sendAll : List Datagram → Wire → Wire
  | [], w => w
  | d :: ds, w => Wire.sendAll ds (w.send d)

/-- What a core emitted between two of its states. -/
def emitted (s s' : State) : List Datagram := s'.txlog.drop s.txlog.length

/-- Datagrams put into a core's queue one after another. -/
def deliverAll : List Datagram → State → State
  | [], s => s
  | d :: ds, s => deliverAll ds (s.deliver d)

/-- Two cores, and the two directions of the link between them. -/
structure Exchange where
  a : State
  b : State
  /-- what `a` emits, on its way to `b`. -/
  ab : Wire
  /-- what `b` emits, on its way to `a`. -/
  ba : Wire
  deriving DecidableEq, Repr

/-- The link is the faithful one (R63). -/
def Exchange.faithful (x : Exchange) : Prop := x.ab.faithful ∧ x.ba.faithful

/-- A core of the pair. -/
def Exchange.core (side : Side) (x : Exchange) : State :=
  match side with
  | .a => x.a
  | .b => x.b

/-- The direction of the link that a core emits onto. -/
def Exchange.wire (side : Side) (x : Exchange) : Wire :=
  match side with
  | .a => x.ab
  | .b => x.ba

/-- The pair with one core replaced. -/
def Exchange.setCore (side : Side) (s : State) (x : Exchange) : Exchange :=
  match side with
  | .a => { x with a := s }
  | .b => { x with b := s }

/-- The pair with one direction of the link replaced. -/
def Exchange.setWire (side : Side) (w : Wire) (x : Exchange) : Exchange :=
  match side with
  | .a => { x with ab := w }
  | .b => { x with ba := w }

/-- The link offers `ds`, taken from the direction `side` emits onto, to the peer; the direction is then `w`, with `ds`
in its history. -/
def Exchange.offer (side : Side) (ds : List Datagram) (w : Wire) (x : Exchange) : Exchange :=
  (x.setCore side.other (deliverAll ds (x.core side.other))).setWire side { w with brought := w.brought ++ ds }

/-- The link appends the oldest datagram on its way from `side`, if there is one. -/
def Exchange.bring (side : Side) (x : Exchange) : Exchange :=
  match (x.wire side).waiting with
  | [] => x
  | d :: rest => x.offer side [d] { x.wire side with waiting := rest }

/-- The link appends all that is on its way from `side`, in emission order. -/
def Exchange.bringAll (side : Side) (x : Exchange) : Exchange :=
  x.offer side (x.wire side).waiting { x.wire side with waiting := [] }

/-- The link appends the `k`th of the datagrams its exceptions hold for the peer of `side`, if there is one. -/
def Exchange.release (side : Side) (k : Nat) (x : Exchange) : Exchange :=
  match (x.wire side).held[k]? with
  | none => x
  | some d => x.offer side [d] { x.wire side with held := (x.wire side).held.eraseIdx k }

/-- One core takes a turn of its own, and what it emits goes onto the link. -/
def Exchange.moveBy (side : Side) (t : Turn) (x : Exchange) : Host.Outcome Exchange Fault Refusal :=
  match turnStep t (x.core side) with
  | .next s => .next ((x.setCore side s).setWire side (Wire.sendAll (emitted (x.core side) s) (x.wire side)))
  | .fault r => .fault r
  | .refused r => .refused r

/-- Which agent of the pair moves next: a core, its host, its clock, its reset input, its environment; or the link, which
brings the oldest datagram emitted by a core to the other, or releases a held one. No turn appends anything else. -/
inductive PairTurn where
  | core (side : Side)
  | host (side : Side)
  | tick (side : Side)
  | reset (side : Side)
  | grant (side : Side) (b : Bool)
  | bring (sender : Side)
  | release (sender : Side) (k : Nat)
  deriving DecidableEq, Repr

/-- One move of the pair. A tick of a core waits for the link to have brought what that core emitted: "before A's next
clock tick" (R63). -/
def exchangeTurn (t : PairTurn) (x : Exchange) : Host.Outcome Exchange Fault Refusal :=
  match t with
  | .core side => x.moveBy side .core
  | .host side => x.moveBy side .host
  | .tick side => (x.bringAll side).moveBy side .tick
  | .reset side => x.moveBy side .reset
  | .grant side b => x.moveBy side (.grant b)
  | .bring side => .next (x.bring side)
  | .release side k => .next (x.release side k)

/-- Several moves of the pair, stopping at the first fault or refusal. -/
def exchangeTurns : List PairTurn → Exchange → Host.Outcome Exchange Fault Refusal
  | [], x => .next x
  | t :: rest, x =>
    match exchangeTurn t x with
    | .next x' => exchangeTurns rest x'
    | .fault r => .fault r
    | .refused r => .refused r

end Sys2Proof.Machine
end

