-- ==== Sys2Proof/Machine/HostSequences.lean ====
section
/-! DEFINITION. The host's command sequences over the core (spec/45_host_sequences.md rules R200 to R209). They are
outside the block (spec/00_scope.md rule R5 (b)) and no step uses them: pure functions, so that a claim about a host
program can name them. -/

namespace Sys2Proof.Machine

/-- SENDONE: the four commands of one reliable send; `s` is what SEQRD answered (R192, R201). The host waits until the
core is ready between them. R201 writes `len=len(payload)` and the operand is one byte: that a payload of 256 bytes or more
gives `len` modulo 256, with which the BUILD is not well-formed, is the model's choice (DESIGN CHOICE, log entry 14); one of
128 to 255 bytes gives the BUILD that R113 refuses. -/
def sendOne (s : BitVec 5) (typ : Byte) (payload : List Byte) (dest : Addr) (filter : Filter) : List Instr :=
  [.seqrd, .build (s.setWidth 8) typ (BitVec.ofNat 8 payload.length) payload, .rsend dest filter, .seqadv]

/-- The content categories of a metadata frame (R85, R202). -/
inductive Category where
  | text
  | video
  | image
  deriving DecidableEq, Repr

/-- The type tag of a category's metadata frame: FILE_TEXT, FILE_VIDEO, FILE_IMAGE (R85). -/
def Category.tag : Category → Byte
  | .text => 6
  | .video => 7
  | .image => 8

/-- The chunks of a resource, 127 bytes each but the last, at most `fuel` of them (R202). -/
def chunksOf : Nat → List Byte → List (List Byte)
  | 0, _ => []
  | _ + 1, [] => []
  | fuel + 1, b :: bs => (b :: bs).take maxPayload :: chunksOf fuel ((b :: bs).drop maxPayload)

/-- All the chunks of a resource; none of an empty one (R202). -/
def chunks (content : List Byte) : List (List Byte) := chunksOf content.length content

/-- SENDF: the frames it sends one after another, each a `SENDONE`, as type and payload (R202). "The name must fit one
frame, at most 127 bytes"; what happens to a longer one the source does not say (91_not_in_source.md N14). That it is listed
here as one metadata frame all the same, neither cut nor split, is the model's choice (DESIGN CHOICE, log entry 14). -/
def transferFrames (category : Category) (name content : List Byte) : List (Byte × List Byte) :=
  (category.tag, name) :: ((chunks content).map fun c => ((5 : Byte), c)) ++ [((9 : Byte), [])]

/-- RECVF: the resource that the frames delivered after the metadata frame make, DATA payloads in arrival order until
END_OF_FILE; `none` where the spec does not say what the loop does, or before the end (R204). -/
def reassemble : List (Byte × List Byte) → Option (List Byte)
  | [] => none
  | (typ, payload) :: rest =>
    if typ = 9 then some []
    else if typ = 5 then (reassemble rest).map fun content => payload ++ content
    else none

/-- SENDERR: the ERROR frame of a code (R208). -/
def errorFrame (code : Byte) : Byte × List Byte := (15, [code])

/-- RECVF begins with the free-space test, strictly below the threshold: it then sends the error of code 1 and creates
nothing (R204, R205). -/
def storageRefusal (free threshold : Nat) : Option (Byte × List Byte) :=
  if free < threshold then some (errorFrame 1) else none

/-- The movement directions (R85, R209). -/
inductive Direction where
  | right
  | up
  | down
  | left
  deriving DecidableEq, Repr

/-- SENDMOVE: the movement frame of a direction, its payload empty as in the spec's examples (R209). -/
def moveFrame : Direction → Byte × List Byte
  | .right => (10, [])
  | .up => (11, [])
  | .down => (12, [])
  | .left => (13, [])

end Sys2Proof.Machine
end

