-- ==== Sys2Proof/Safety.lean ====
section
/-! DEFINITION. What a legal state of the core is, in the terms the statements use: the ranges of the registers
(spec/10_state.md rule R20), what each buffer holds (R22, R24), what the queue and the handle owe each other (R37), and
what a busy core guarantees (R31, spec/42_arq_send.md rules R151 and R156). -/

namespace Sys2Proof.Machine

/-- A frame buffer's content is legal: the payload has `length` bytes and the checksum is right (R22, R137). -/
def soundFrame (f : Frame) : Bool := f.wf && validate f

/-- A datagram that this core may have emitted: `wrap` of a sound frame to some destination (R56, R89). -/
def emittedBy (c : Config) (d : Datagram) : Prop :=
  ∃ (f : Frame) (dest : Addr), soundFrame f = true ∧ d = wrap c f dest

/-- The legal states: the invariant every step keeps. -/
structure State.Legal (s : State) : Prop where
  /-- `ATTEMPTS` is 0 to 5 (R25). -/
  attempts_range : s.attempts.toNat ≤ maxAttempts
  /-- `TIMER` is 0 to 2000 (R26). -/
  timer_range : s.timer.toNat ≤ timeoutMs
  /-- Datagrams wait only behind an open handle (R37, R130, R131). -/
  queue_open : s.rxq ≠ [] → s.linkState = .opened
  /-- The queue is within its capacity (R37). -/
  queue_depth : ∀ n, s.config.rxqDepth = some n → s.rxq.length ≤ n
  /-- An ARQ command runs only with an open handle (R132). -/
  busy_open : s.busy = true → s.linkState = .opened
  /-- While an ARQ command runs `RESULT` holds `None` (R31). -/
  busy_result : s.busy = true → s.result = .none
  /-- A running RSEND has its frame and an attempt left (R151, R156). -/
  sending_frame : s.arqState = .sending ∨ s.arqState = .awaitingResponse →
    s.txf.isSome = true ∧ s.attempts.toNat < maxAttempts
  /-- `TXF` holds what BUILD built (R22). -/
  txf_sound : ∀ f, s.txf = some f → soundFrame f = true
  /-- `RXF` holds what the parser accepted (R24, R137). -/
  rxf_sound : ∀ f, s.rxf = some f → soundFrame f = true
  /-- `RXF` and `PEER` are written together (R24). -/
  rxf_peer : s.rxf.isSome = s.peer.isSome
  /-- Every datagram emitted is a sound frame in this core's envelope (R56, R89). -/
  txlog_sound : ∀ d ∈ s.txlog, emittedBy s.config d

/-! ## The terms of the statements -/

/-- A body's fields pass the reject tests (R136): this protocol's ethertype, the filter's destination when there is a
filter, the start marker. -/
def passesReject (c : Config) (filter : Filter) (e : Envelope) (b : Body) : Prop :=
  e.ethertype = c.ethertype ∧ (∀ a, filter = some a → e.dest = a) ∧ b.marker = c.startMarker

/-- A body of tag `t` carries the checksum of its fields (R137, last line of `intact`). -/
def carriesChecksum (t : BitVec 4) (b : Body) : Prop :=
  b.checksum =
    b.length.setWidth 8 ^^^ b.sequence.setWidth 8 ^^^ t.setWidth 8 ^^^ b.payload.foldr (fun x y => x ^^^ y) 0

/-- The exclusive or of a payload's bytes as a number (R11). -/
def foldNat (payload : List Byte) : Nat := payload.foldr (fun x n => x.toNat ^^^ n) 0

/-- The ACK `F(0, q, 0, q, [])` (R172). -/
def ackFrame (q : BitVec 5) : Frame :=
  { length := 0, sequence := q, type := 0, checksum := q.setWidth 8, payload := [] }

/-- The NACK `F(0, q, 1, q ^ 1, [])` (R173). -/
def nackFrame (q : BitVec 5) : Frame :=
  { length := 0, sequence := q, type := 1, checksum := q.setWidth 8 ^^^ 1, payload := [] }

/-- What a matching NACK and an elapsed deadline both do to RSEND (R156), written out. -/
def afterAttempt (s : State) : State :=
  if s.attempts.toNat + 1 < 5 then { s with attempts := s.attempts + 1, arqState := .sending }
  else { s with attempts := s.attempts + 1, arqState := .failed, result := .failedNoAck }

/-- How many operand bytes the table of R93 gives the command of a code byte; BUILD's third and VALIDATE's first operand
byte say how many payload bytes follow. None where the code is not in the table or that byte is not there. -/
def operandCount (code : Byte) (operands : List Byte) : Option Nat :=
  if code ∈ [0x01, 0x02, 0x40, 0x41] then some 0
  else if code = 0x10 then operands[2]?.map fun len => 3 + len.toNat
  else if code = 0x11 then operands[0]?.map fun len => 4 + len.toNat
  else if code = 0x20 then some 6
  else if code = 0x30 then some 13
  else if code ∈ [0x21, 0x31] then some 7
  else none

/-- Several instructions run one after another (R60), stopping at the first fault or refusal. -/
def execAll : List Instr → State → Host.Outcome State Fault Refusal
  | [], s => .next s
  | i :: is, s =>
    match exec i s with
    | .next s' => execAll is s'
    | .fault r => .fault r
    | .refused r => .refused r

/-- So many steps of the machine, stopping at the first fault or refusal. -/
def runSteps : Nat → State → Host.Outcome State Fault Refusal
  | 0, s => .next s
  | k + 1, s =>
    match step s with
    | .next s' => runSteps k s'
    | .fault r => .fault r
    | .refused r => .refused r

/-- Whose turn a step takes. -/
def turnOf (s : State) : Turn := (nextTurn s).1

/-- The transmissions a running RSEND can still make (R161). -/
def sendsLeft (s : State) : Nat :=
  match s.arqState with
  | .sending => maxAttempts - s.attempts.toNat
  | .awaitingResponse => maxAttempts - (s.attempts.toNat + 1)
  | .idle | .listening | .succeeded | .failed => 0

/-- The clock ticks a running ARQ command can still take (R161, R178). -/
def ticksLeft (s : State) : Nat :=
  match s.arqState with
  | .sending => (maxAttempts - s.attempts.toNat) * timeoutMs
  | .awaitingResponse => s.timer.toNat + (maxAttempts - (s.attempts.toNat + 1)) * timeoutMs
  | .listening => s.timer.toNat
  | .idle | .succeeded | .failed => 0

/-- The turns of one attempt that nothing answers: the transmit step, the ticks of one deadline, the timeout step
(R152, R155, R159). -/
def silentAttempt : List Turn := .core :: (List.replicate timeoutMs .tick ++ [.core])

/-- The turns of an RSEND that nothing answers. -/
def silentSend : List Turn := (List.replicate maxAttempts silentAttempt).flatten

end Sys2Proof.Machine
end

