-- ==== Sys2Proof/Certificates/Slice0/Obligations.lean ====
section
/-! DEFINITION. The statements about the stop-and-wait frame core, one `Prop` each. -/

open Sys2Proof Sys2Proof.Machine

/-! ## Encoding -/

/-- Commands and frames written out byte by byte from the encodings of R93 (the programs P1 to P3 of the spec) and
of R55 and R81 (the datagrams V30, V32 and V33) decode to what they stand for. -/
def Obligations.WrittenWordsDecode : Prop :=
  decode .command [0x01] = .ok (.openHandle, []) ∧
  decode .command [0x02] = .ok (.closeHandle, []) ∧
  decode .command [0x10, 0x25, 0x14, 0x00] = .ok (.build 37 20 0 [], []) ∧
  decode .command [0x11, 0x00, 0x05, 0x04, 0x31] = .ok (.validate ⟨0, 5, 4, 0x31, []⟩, []) ∧
  decode .command [0x20, 0x02, 0, 0, 0, 0, 0x0B] = .ok (.lsend ⟨2, 0, 0, 0, 0, 0x0B⟩, []) ∧
  decode .command [0x21, 0x01, 0x02, 0, 0, 0, 0, 0x0A] = .ok (.lrecv (some ⟨2, 0, 0, 0, 0, 0x0A⟩), []) ∧
  decode .command [0x30, 0x02, 0, 0, 0, 0, 0x0B, 0, 0, 0, 0, 0, 0, 0] =
    .ok (.rsend ⟨2, 0, 0, 0, 0, 0x0B⟩ none, []) ∧
  decode .command [0x31, 0, 0, 0, 0, 0, 0, 0] = .ok (.rrecv none, []) ∧
  decode .command [0x40] = .ok (.seqrd, []) ∧
  decode .command [0x41] = .ok (.seqadv, []) ∧
  decode .receive [0x02, 0, 0, 0, 0, 0x0B, 0xFF, 0xFF, 0xFF, 0xFF, 0xFF, 0xFF, 0x88, 0xB5,
      0x7E, 0x03, 0x05, 0x05, 0x03, 0x01, 0x02, 0x03] =
    .ok (.data ⟨⟨2, 0, 0, 0, 0, 0x0B⟩, ⟨0xFF, 0xFF, 0xFF, 0xFF, 0xFF, 0xFF⟩, 0x88B5⟩ ⟨0x7E, 3, 5, 3, [1, 2, 3]⟩, []) ∧
  decode .receive [0xFF, 0xFF, 0xFF, 0xFF, 0xFF, 0xFF, 0xFF, 0xFF, 0xFF, 0xFF, 0xFF, 0xFF, 0x88, 0xB5,
      0x7E, 0x00, 0x05, 0x01, 0x04] =
    .ok (.nack ⟨⟨0xFF, 0xFF, 0xFF, 0xFF, 0xFF, 0xFF⟩, ⟨0xFF, 0xFF, 0xFF, 0xFF, 0xFF, 0xFF⟩, 0x88B5⟩
      ⟨0x7E, 0, 5, 4, []⟩, [])

/-- Every well-formed instruction, with every operand at every value its encoding admits, is what its own port's
decoder reads from its encoding, and the decoder stops at the encoding's end. -/
def Obligations.DecodeEncodeEveryInstruction : Prop :=
  ∀ (i : Instr) (rest : List Byte), i.wf = true → decode i.port (encode i ++ rest) = .ok (i, rest)

/-- Whatever bytes decode, the instruction is well-formed, belongs to the port, and takes exactly the bytes its
encoding has. Those bytes are its encoding, bit for bit, but for the six address bytes of an absent filter, which may hold
anything (R93: "present and not used"; log entry 11). -/
def Obligations.DecodedBytesAreTheEncoding : Prop :=
  ∀ (p : Port) (bytes rest : List Byte) (i : Instr), decode p bytes = .ok (i, rest) →
    i.wf = true ∧ i.port = p ∧ (encode i).length + rest.length = bytes.length ∧
      ((i ≠ .lrecv none ∧ i ≠ .rrecv none ∧ ∀ dest, i ≠ .rsend dest none) → encode i ++ rest = bytes) ∧
      ((i = .lrecv none ∨ i = .rrecv none ∨ ∃ dest, i = .rsend dest none) →
        ∃ a : Addr, (encode i).take ((encode i).length - 6) ++ addrBytes a ++ rest = bytes)

/-- The frame rows of the table by their mask and match (R96, R81): a 40-bit header that the mask `0x0080E0FF00`
takes to the tag `t` is the row of `t` with its fields in their bits; one that the mask takes to no tag is none. -/
def Obligations.FrameRowsAreChosenByTheMask : Prop :=
  ∀ w : Nat, w < 2 ^ 40 →
    (∀ t : Nat, t < 16 → w &&& 0x0080E0FF00 = t * 256 →
      ∃ (i : Instr) (e : Envelope) (b : Body), decodeTableWord 40 w = some i ∧
        i.asFrame = some (BitVec.ofNat 4 t, e, b) ∧ b.marker.toNat = w / 2 ^ 32 ∧
        b.length.toNat = w / 2 ^ 24 % 128 ∧ b.sequence.toNat = w / 2 ^ 16 % 32 ∧
        b.checksum.toNat = w % 256) ∧
    ((∀ t : Nat, t < 16 → w &&& 0x0080E0FF00 ≠ t * 256) → decodeTableWord 40 w = none)

/-- "A code byte not in the table spells no command: the core does not accept it and changes no state", "a flag byte
other than 0 or 1 spells no command" (R93: of LRECV, RRECV and RSEND), and "a byte image with out-of-range fields is not a
`Frame` and spells no VALIDATE command" (R115). The model's choices: that the host's transaction is then over, so that
`commands` loses it (log entry 3), and that an empty transaction, a command cut short and one with bytes left over spell no
command either (log entry 10). -/
def Obligations.UnspelledCommandChangesNothing : Prop :=
  ∀ (s : State) (bytes : List Byte) (cmds : List (List Byte)) (later : List Turn),
    s.ready = true → s.turns = .host :: later → s.commands = bytes :: cmds →
    (bytes = [] ∨ ∃ code operands, bytes = code :: operands ∧
      (code ∉ [0x01, 0x02, 0x10, 0x11, 0x20, 0x21, 0x30, 0x31, 0x40, 0x41] ∨
        (code ∈ [0x21, 0x31] ∧ ∃ flag, operands[0]? = some flag ∧ flag ≠ 0 ∧ flag ≠ 1) ∨
        (code = 0x30 ∧ ∃ flag, operands[6]? = some flag ∧ flag ≠ 0 ∧ flag ≠ 1) ∨
        (code = 0x11 ∧ ∃ l q t rest, operands = l :: q :: t :: rest ∧
          (l.toNat > 127 ∨ q.toNat > 31 ∨ t.toNat > 15)) ∨
        operandCount code operands ≠ some operands.length)) →
    step s = .next { s with commands := cmds, turns := later }

/-! ## Frame codec -/

/-- `build` masks and computes the checksum over the masked fields, in numbers (R111, R83), and what it returns
validates (R117). -/
def Obligations.BuildMasksAndChecksums : Prop :=
  ∀ (seq typ len : Byte) (payload : List Byte), len.toNat ≤ 127 → payload.length = len.toNat →
    (build seq typ payload len).length.toNat = len.toNat ∧
    (build seq typ payload len).sequence.toNat = seq.toNat % 32 ∧
    (build seq typ payload len).type.toNat = typ.toNat % 16 ∧
    (build seq typ payload len).payload = payload ∧
    (build seq typ payload len).checksum.toNat =
      len.toNat ^^^ (seq.toNat % 32) ^^^ (typ.toNat % 16) ^^^ foldNat payload ∧
    validate (build seq typ payload len) = true

/-- BUILD on a ready core, in any `LINK_STATE` (R114): above 127 it is refused and `TXF` is unchanged (R113, R222);
otherwise `TXF` holds what `build` returns. Nothing else changes. -/
def Obligations.BuildCommand : Prop :=
  ∀ (seq typ len : Byte) (payload : List Byte) (s : State), payload.length = len.toNat → s.ready = true →
    encode (.build seq typ len payload) = [0x10, seq, typ, len] ++ payload ∧
    (len.toNat > 127 → exec (.build seq typ len payload) s = .next { s with result := .lengthError }) ∧
    (len.toNat ≤ 127 → exec (.build seq typ len payload) s =
      .next { s with txf := some (build seq typ payload len), result := .ok })

/-- VALIDATE on a ready core, in any `LINK_STATE` (R115): `RESULT` says whether the checksum carried is the one
recomputed (R112). Nothing else changes. -/
def Obligations.ValidateCommand : Prop :=
  ∀ (f : Frame) (s : State), f.payload.length = f.length.toNat → s.ready = true →
    encode (.validate f) = 0x11 :: f.length.setWidth 8 :: f.sequence.setWidth 8 :: f.type.setWidth 8 ::
      f.checksum :: f.payload ∧
    exec (.validate f) s = .next { s with result := .valid (decide (f.checksum.toNat =
      f.length.toNat ^^^ f.sequence.toNat ^^^ f.type.toNat ^^^ foldNat f.payload)) }

/-- A change of exactly one payload byte, or of the length, the sequence, the type or the checksum alone, of a frame
that validates is detected (R118). -/
def Obligations.OneChangedFieldIsDetected : Prop :=
  ∀ f : Frame, validate f = true →
    (∀ (i : Nat) (b : Byte), i < f.payload.length → f.payload[i]? ≠ some b →
      validate { f with payload := f.payload.set i b } = false) ∧
    (∀ l, l ≠ f.length → validate { f with length := l } = false) ∧
    (∀ q, q ≠ f.sequence → validate { f with sequence := q } = false) ∧
    (∀ t, t ≠ f.type → validate { f with type := t } = false) ∧
    (∀ ck, ck ≠ f.checksum → validate { f with checksum := ck } = false)

/-- The order in which the payload bytes are folded does not matter (R116), so a reordering of them is not
detected (R119). -/
def Obligations.ReorderedPayloadValidatesAlike : Prop :=
  ∀ (f : Frame) (payload : List Byte), f.payload.Perm payload →
    validate { f with payload := payload } = validate f

/-! ## Link handle and link transport -/

/-- OPEN on a ready core (R130): only `Closed` uses the grant. Nothing else changes. -/
def Obligations.OpenCommand : Prop :=
  ∀ s : State, s.ready = true →
    encode .openHandle = [0x01] ∧
    (s.linkState = .closed → s.grant = true →
      exec .openHandle s = .next { s with linkState := .opened, rxq := [], result := .ok }) ∧
    (s.linkState = .closed → s.grant = false →
      exec .openHandle s = .next { s with linkState := .failed, rxq := [], result := .transportError }) ∧
    (s.linkState = .opened → exec .openHandle s = .next { s with result := .ok }) ∧
    (s.linkState = .failed → exec .openHandle s = .next { s with result := .transportError })

/-- CLOSE on a ready core (R131). Nothing else changes, and nothing is sent. -/
def Obligations.CloseCommand : Prop :=
  ∀ s : State, s.ready = true →
    encode .closeHandle = [0x02] ∧
    (s.linkState = .opened →
      exec .closeHandle s = .next { s with linkState := .closed, rxq := [], result := .ok }) ∧
    (s.linkState = .closed → exec .closeHandle s = .next { s with result := .ok }) ∧
    (s.linkState = .failed → exec .closeHandle s = .next { s with result := .transportError })

/-- The datagram `wrap` makes, byte by byte (R134, R55), and its length: `19 + length`, 19 to 146 (R56). -/
def Obligations.WrapByteMap : Prop :=
  ∀ (c : Config) (f : Frame) (dest : Addr), f.payload.length = f.length.toNat →
    (wrap c f dest).length = 19 + f.length.toNat ∧
    minDatagram ≤ (wrap c f dest).length ∧ (wrap c f dest).length ≤ maxDatagram ∧
    (wrap c f dest).take 6 = [dest.b0, dest.b1, dest.b2, dest.b3, dest.b4, dest.b5] ∧
    ((wrap c f dest).drop 6).take 6 =
      [c.srcPattern.b0, c.srcPattern.b1, c.srcPattern.b2, c.srcPattern.b3, c.srcPattern.b4, c.srcPattern.b5] ∧
    (((wrap c f dest).drop 12).take 7).map BitVec.toNat =
      [c.ethertype.toNat / 256, c.ethertype.toNat % 256, c.startMarker.toNat, f.length.toNat,
        f.sequence.toNat, f.type.toNat, f.checksum.toNat] ∧
    (wrap c f dest).drop 19 = f.payload

/-- `unwrap` rejects exactly the datagrams that are shorter than 19 bytes, have another ethertype, another
destination than the filter's when there is one, or another start marker (R136). -/
def Obligations.UnwrapRejectsExactly : Prop :=
  ∀ (c : Config) (d : Datagram) (filter : Filter), unwrap c d filter = .reject ↔
    (d.length < 19 ∨ ¬(d[12]? = some (etherHi c.ethertype) ∧ d[13]? = some (etherLo c.ethertype)) ∨
      (∃ a, filter = some a ∧ d.take 6 ≠ [a.b0, a.b1, a.b2, a.b3, a.b4, a.b5]) ∨
      d[14]? ≠ some c.startMarker)

/-- A datagram that passes the reject tests is accepted exactly when the length, sequence and type bytes are in
range, every declared payload byte is present, and the carried checksum is the one recomputed (R137); otherwise the
verdict is a mismatch with the raw sequence byte. The frame accepted is the one in the datagram, in range and valid,
with bytes 6 to 11 as its sender. -/
def Obligations.UnwrapAcceptsExactlyIntact : Prop :=
  ∀ (c : Config) (d : Datagram) (filter : Filter), unwrap c d filter ≠ .reject →
    ((∃ f a, unwrap c d filter = .accept f a) ↔
      ((byteAt d 15).toNat ≤ 127 ∧ (byteAt d 16).toNat ≤ 31 ∧ (byteAt d 17).toNat ≤ 15 ∧
        19 + (byteAt d 15).toNat ≤ d.length ∧
        (byteAt d 18).toNat = (byteAt d 15).toNat ^^^ (byteAt d 16).toNat ^^^ (byteAt d 17).toNat ^^^
          foldNat ((d.drop 19).take (byteAt d 15).toNat))) ∧
    ((∀ f a, unwrap c d filter ≠ .accept f a) → unwrap c d filter = .mismatch (byteAt d 16) (addrAt d 6)) ∧
    (∀ f a, unwrap c d filter = .accept f a →
      f.wf = true ∧ validate f = true ∧ a = addrAt d 6 ∧
      f.length.toNat = (byteAt d 15).toNat ∧ f.sequence.toNat = (byteAt d 16).toNat ∧
      f.type.toNat = (byteAt d 17).toNat ∧ f.checksum = byteAt d 18 ∧
      f.payload = (d.drop 19).take (byteAt d 15).toNat)

/-- The round trip on the link (R140): a frame that validates is accepted unchanged from `SRC_PATTERN`, without a
filter or with its own destination, and rejected under any other filter; one that does not is a mismatch; bytes
appended to the datagram do not change the verdict. -/
def Obligations.RoundTripOnTheLink : Prop :=
  ∀ (c : Config) (f : Frame) (dest a : Addr) (extra : List Byte), f.payload.length = f.length.toNat →
    (validate f = true → unwrap c (wrap c f dest ++ extra) none = .accept f c.srcPattern) ∧
    (validate f = true → a = dest → unwrap c (wrap c f dest ++ extra) (some a) = .accept f c.srcPattern) ∧
    (a ≠ dest → unwrap c (wrap c f dest ++ extra) (some a) = .reject) ∧
    (validate f = false →
      unwrap c (wrap c f dest ++ extra) none = .mismatch (f.sequence.setWidth 8) c.srcPattern)

/-- The bytes from offset `19 + L` on are ignored: they are not stored and change no verdict (R57). -/
def Obligations.TrailingBytesAreIgnored : Prop :=
  ∀ (c : Config) (d extra : Datagram) (filter : Filter), 19 + (byteAt d 15).toNat ≤ d.length → 19 ≤ d.length →
    unwrap c (d ++ extra) filter = unwrap c d filter

/-- LSEND on a ready core with an open handle (R138): without a frame it is refused; otherwise one datagram is
emitted and `TXF` is kept. Nothing else changes. -/
def Obligations.LsendCommand : Prop :=
  ∀ (dest : Addr) (s : State), s.ready = true →
    encode (.lsend dest) = [0x20, dest.b0, dest.b1, dest.b2, dest.b3, dest.b4, dest.b5] ∧
    (s.linkState ≠ .opened → exec (.lsend dest) s = .next { s with result := .transportError }) ∧
    (s.linkState = .opened → s.txf = none → exec (.lsend dest) s = .next { s with result := .noTxFrame }) ∧
    (∀ f, s.linkState = .opened → s.txf = some f →
      exec (.lsend dest) s = .next { s with txlog := s.txlog ++ [wrap s.config f dest], result := .ok })

/-- LRECV on a ready core (R139): the oldest datagram is popped and its verdict told; `RXF` and `PEER` are written on
acceptance only, and nothing is emitted. -/
def Obligations.LrecvCommand : Prop :=
  ∀ (filter : Filter) (s : State), s.ready = true →
    (encode (.lrecv filter)).head? = some 0x21 ∧
    (s.linkState ≠ .opened → exec (.lrecv filter) s = .next { s with result := .transportError }) ∧
    (s.linkState = .opened → s.rxq = [] → exec (.lrecv filter) s = .next { s with result := .noFrame }) ∧
    (∀ d rest, s.linkState = .opened → s.rxq = d :: rest →
      (unwrap s.config d filter = .reject →
        exec (.lrecv filter) s = .next { s with rxq := rest, result := .reject }) ∧
      (∀ q a, unwrap s.config d filter = .mismatch q a →
        exec (.lrecv filter) s = .next { s with rxq := rest, result := .checksumMismatch q a }) ∧
      (∀ f a, unwrap s.config d filter = .accept f a →
        exec (.lrecv filter) s = .next { s with rxq := rest, rxf := some f, peer := some a, result := .frame }))

/-! ## Sequence number tracker -/

/-- SEQRD on a ready core, in any `LINK_STATE` (R190): `RESULT` only. -/
def Obligations.SeqrdCommand : Prop :=
  ∀ s : State, s.ready = true →
    encode .seqrd = [0x40] ∧ exec .seqrd s = .next { s with result := .seqValue s.seq }

/-- SEQADV on a ready core, in any `LINK_STATE` (R191): `SEQ` becomes `(SEQ + 1) mod 32`, `RESULT` becomes `Ok`,
nothing else changes. -/
def Obligations.SeqadvCommand : Prop :=
  ∀ s : State, s.ready = true →
    encode .seqadv = [0x41] ∧
    ∃ q : BitVec 5, q.toNat = (s.seq.toNat + 1) % 32 ∧
      exec .seqadv s = .next { s with seq := q, result := .ok }

/-- After `n` SEQADVs `SEQ` has advanced by `n` modulo 32; from reset it is `n mod 32` (R193). -/
def Obligations.SequenceCountsModulo32 : Prop :=
  ∀ (n : Nat) (s : State), s.ready = true →
    ∃ t, execAll (List.replicate n .seqadv) s = .next t ∧
      t.seq.toNat = (s.seq.toNat + n) % seqMod ∧ (s.seq = State.reset.seq → t.seq.toNat = n % seqMod)

/-! ## Reliable send -/

/-- RSEND, acceptance (R151): refused without a handle or without a frame; otherwise the operands are latched, the
retry counter is cleared, and the core is `Sending`. Nothing else changes, `RXQ` included. -/
def Obligations.RsendAcceptance : Prop :=
  ∀ (dest : Addr) (filter : Filter) (s : State), s.ready = true →
    (encode (.rsend dest filter)).head? = some 0x30 ∧
    (s.linkState ≠ .opened → exec (.rsend dest filter) s = .next { s with result := .transportError }) ∧
    (s.linkState = .opened → s.txf = none →
      exec (.rsend dest filter) s = .next { s with result := .noTxFrame }) ∧
    (∀ f, s.linkState = .opened → s.txf = some f →
      exec (.rsend dest filter) s =
        .next { s with txdest := dest, filter := filter, attempts := 0, result := .none, arqState := .sending })

/-- The transmit step (R152): `TXF` goes to `TXDEST`, `TIMER` is loaded with `TIMEOUT_MS`, the core awaits a
response. Nothing else changes. -/
def Obligations.TransmitStep : Prop :=
  ∀ (s : State) (f : Frame) (later : List Turn), s.turns = .core :: later → s.arqState = .sending →
    s.txf = some f →
    step s = .next { s with
      txlog := s.txlog ++ [wrap s.config f s.txdest], timer := BitVec.ofNat 11 timeoutMs,
      arqState := .awaitingResponse, turns := later }

/-- The poll step of RSEND (R153, R158). R153 says an empty queue "is not a step"; that the turn then leaves the state and
is used up is the model's choice (log entry 3). Otherwise the oldest datagram is popped; an accepted response with the
sequence of `TXF` ends the command if it is an ACK and ends the attempt if it is a NACK (R154, R156); anything else changes
nothing but the queue (R160). `RXF` and `PEER` are never written. -/
def Obligations.SendPollStep : Prop :=
  ∀ (s : State) (f : Frame) (later : List Turn),
    s.turns = .core :: later → s.arqState = .awaitingResponse → s.timer ≠ 0 → s.txf = some f →
    (s.rxq = [] → step s = .next { s with turns := later }) ∧
    ∀ (d : Datagram) (rest : List Datagram), s.rxq = d :: rest →
      (∀ r a, unwrap s.config d s.filter = .accept r a → r.sequence = f.sequence → r.type = 0 →
        step s = .next { s with rxq := rest, turns := later, result := .succeeded, arqState := .succeeded }) ∧
      (∀ r a, unwrap s.config d s.filter = .accept r a → r.sequence = f.sequence → r.type = 1 →
        step s = .next (afterAttempt { s with rxq := rest, turns := later })) ∧
      (∀ r a, unwrap s.config d s.filter = .accept r a → ¬(r.sequence = f.sequence ∧ (r.type = 0 ∨ r.type = 1)) →
        step s = .next { s with rxq := rest, turns := later }) ∧
      ((∀ r a, unwrap s.config d s.filter ≠ .accept r a) →
        step s = .next { s with rxq := rest, turns := later })

/-- The timeout steps: at `TIMER = 0`, whatever `RXQ` holds, and the queue keeps it, the attempt of RSEND is over
(R155, R156), and RRECV fails with nothing sent and `RXF` and `PEER` unchanged (R175). -/
def Obligations.TimeoutSteps : Prop :=
  ∀ (s : State) (later : List Turn), s.turns = .core :: later → s.timer = 0 →
    (s.arqState = .awaitingResponse → step s = .next (afterAttempt { s with turns := later })) ∧
    (s.arqState = .listening →
      step s = .next { s with turns := later, result := .failedTimeout, arqState := .failed })

/-- A matching ACK, intact and past the reject tests, presented to a core that awaits a response, ends RSEND with
`Succeeded`; nothing else changes (R153, R158). The constructor is `ack`. -/
def Obligations.AckEndsReliableSend : Prop :=
  ∀ (s : State) (f : Frame) (e : Envelope) (b : Body), s.arqState = .awaitingResponse → s.timer ≠ 0 →
    s.txf = some f → b.payload.length = b.length.toNat → passesReject s.config s.filter e b →
    carriesChecksum 0 b → b.sequence = f.sequence →
    exec (.ack e b) s = .next { s with result := .succeeded, arqState := .succeeded }

/-- A matching NACK, intact and past the reject tests, presented to a core that awaits a response, ends the attempt
at once (R154, R156, R158). The constructor is `nack`. -/
def Obligations.NackEndsTheAttempt : Prop :=
  ∀ (s : State) (f : Frame) (e : Envelope) (b : Body), s.arqState = .awaitingResponse → s.timer ≠ 0 →
    s.txf = some f → b.payload.length = b.length.toNat → passesReject s.config s.filter e b →
    carriesChecksum 1 b → b.sequence = f.sequence →
    exec (.nack e b) s = .next (afterAttempt s)

/-- "Anything else" leaves RSEND waiting (R160): a frame of any of the sixteen constructors `ack` to `error` that is
not an ACK or NACK, or has another sequence, or fails the reject tests or the checksum, changes nothing. -/
def Obligations.AnythingElseKeepsPolling : Prop :=
  ∀ (i : Instr) (t : BitVec 4) (e : Envelope) (b : Body) (s : State) (f : Frame),
    i.asFrame = some (t, e, b) → s.arqState = .awaitingResponse → s.timer ≠ 0 → s.txf = some f →
    b.payload.length = b.length.toNat →
    (b.sequence ≠ f.sequence ∨ (t ≠ 0 ∧ t ≠ 1) ∨ ¬passesReject s.config s.filter e b ∨ ¬carriesChecksum t b) →
    exec i s = .next s

/-! ## Reliable receive-and-acknowledge -/

/-- RRECV, acceptance (R170): refused without a handle; otherwise the filter is latched, the one deadline loaded, and
the core listens. Nothing else changes, `RXQ`, `RXF` and `PEER` included. -/
def Obligations.RrecvAcceptance : Prop :=
  ∀ (filter : Filter) (s : State), s.ready = true →
    (encode (.rrecv filter)).head? = some 0x31 ∧
    (s.linkState ≠ .opened → exec (.rrecv filter) s = .next { s with result := .transportError }) ∧
    (s.linkState = .opened →
      exec (.rrecv filter) s =
        .next { s with filter := filter, timer := BitVec.ofNat 11 timeoutMs, result := .none, arqState := .listening })

/-- The poll step of RRECV (R172 to R174). R172 enables it only with a datagram in `RXQ`; that a turn with an empty queue
leaves the state and is used up is the model's choice (log entry 3). Otherwise the oldest datagram is popped; an accepted
frame is acknowledged to its observed source and delivered; a mismatch gets one NACK carrying the low 5 bits of the raw
sequence byte, and the deadline runs on; a reject gets no reply. -/
def Obligations.ReceivePollStep : Prop :=
  ∀ (s : State) (later : List Turn), s.turns = .core :: later → s.arqState = .listening → s.timer ≠ 0 →
    (s.rxq = [] → step s = .next { s with turns := later }) ∧
    ∀ (d : Datagram) (rest : List Datagram), s.rxq = d :: rest →
      (∀ f a, unwrap s.config d s.filter = .accept f a →
        step s = .next { s with
          rxq := rest, turns := later, txlog := s.txlog ++ [wrap s.config (ackFrame f.sequence) a],
          rxf := some f, peer := some a, result := .received, arqState := .succeeded }) ∧
      (∀ q a, unwrap s.config d s.filter = .mismatch q a →
        step s = .next { s with
          rxq := rest, turns := later, txlog := s.txlog ++ [wrap s.config (nackFrame (q.setWidth 5)) a] }) ∧
      (unwrap s.config d s.filter = .reject → step s = .next { s with rxq := rest, turns := later })

/-- An intact frame of any type and sequence that passes the reject tests, presented to a listening core, is
acknowledged and delivered (R172, R177): the sixteen constructors `ack` to `error`. -/
def Obligations.ListenerTakesEveryIntactFrame : Prop :=
  ∀ (i : Instr) (t : BitVec 4) (e : Envelope) (b : Body) (s : State),
    i.asFrame = some (t, e, b) → s.arqState = .listening → s.timer ≠ 0 → b.payload.length = b.length.toNat →
    passesReject s.config s.filter e b → carriesChecksum t b →
    exec i s = .next { s with
      txlog := s.txlog ++ [wrap s.config (ackFrame b.sequence) e.src],
      rxf := some ⟨b.length, b.sequence, t, b.checksum, b.payload⟩, peer := some e.src,
      result := .received, arqState := .succeeded }

/-- A frame of any of the sixteen constructors `ack` to `error` whose checksum is wrong, presented to a listening
core, gets one NACK with its sequence; one that fails a reject test gets nothing; the command goes on (R173, R174,
R179). -/
def Obligations.ListenerRefusesTheRest : Prop :=
  ∀ (i : Instr) (t : BitVec 4) (e : Envelope) (b : Body) (s : State),
    i.asFrame = some (t, e, b) → s.arqState = .listening → s.timer ≠ 0 → b.payload.length = b.length.toNat →
    (passesReject s.config s.filter e b → ¬carriesChecksum t b →
      exec i s = .next { s with txlog := s.txlog ++ [wrap s.config (nackFrame b.sequence) e.src] }) ∧
    (¬passesReject s.config s.filter e b → exec i s = .next s)

/-! ## Events -/

/-- A clock tick subtracts 1 from `TIMER` while the core waits with `TIMER > 0`, and has no effect otherwise (R26,
R159). -/
def Obligations.ClockTick : Prop :=
  ∀ (s : State) (later : List Turn), s.turns = .tick :: later →
    ((s.arqState = .awaitingResponse ∨ s.arqState = .listening) → s.timer ≠ 0 →
      ∃ n : BitVec 11, n.toNat + 1 = s.timer.toNat ∧ step s = .next { s with timer := n, turns := later }) ∧
    (¬((s.arqState = .awaitingResponse ∨ s.arqState = .listening) ∧ s.timer ≠ 0) →
      step s = .next { s with turns := later })

/-- The link may append any byte string while the handle is open and the queue is not full; a datagram that cannot
be appended is lost (R37, R62). -/
def Obligations.LinkDelivery : Prop :=
  ∀ (s : State) (d : Datagram) (later : List Turn), s.turns = .link d :: later →
    ((s.linkState = .opened ∧ (∀ n, s.config.rxqDepth = some n → s.rxq.length < n)) →
      step s = .next { s with rxq := s.rxq ++ [d], turns := later }) ∧
    (¬(s.linkState = .opened ∧ (∀ n, s.config.rxqDepth = some n → s.rxq.length < n)) →
      step s = .next { s with turns := later })

/-- A frame presented to a core that is not polling, of any of the sixteen constructors `ack` to `error`, waits in
`RXQ` if the queue can take it and is lost otherwise (R232, R37). That `exec` of a frame stands for its presentation is
the model's choice (log entry 6). -/
def Obligations.FrameWaitsUntilPolled : Prop :=
  ∀ (i : Instr) (t : BitVec 4) (e : Envelope) (b : Body) (s : State), i.asFrame = some (t, e, b) →
    ((s.arqState ≠ .awaitingResponse ∧ s.arqState ≠ .listening) ∨ s.timer = 0) →
    ((s.linkState = .opened ∧ (∀ n, s.config.rxqDepth = some n → s.rxq.length < n)) →
      exec i s = .next { s with rxq := s.rxq ++ [encode i] }) ∧
    (¬(s.linkState = .opened ∧ (∀ n, s.config.rxqDepth = some n → s.rxq.length < n)) → exec i s = .next s)

/-- A frame presented to a core that awaits a response with nothing in `TXF` stops the model: R153 names no case for
it, and no run reaches it (log entry 8). The same of the transmit step (R152). -/
def Obligations.NoFrameToSendStops : Prop :=
  (∀ (i : Instr) (t : BitVec 4) (e : Envelope) (b : Body) (s : State), i.asFrame = some (t, e, b) →
    s.arqState = .awaitingResponse → s.timer ≠ 0 → s.txf = none → exec i s = .fault .noFrameToSend) ∧
  (∀ (s : State) (later : List Turn), s.turns = .core :: later → s.arqState = .sending → s.txf = none →
    step s = .fault .noFrameToSend)

/-! ## Reset -/

/-- The state after reset (R41). The parameters, the grant and `TXDEST` are the model's choice and not stated. -/
def Obligations.ResetValues : Prop :=
  State.reset.linkState = .closed ∧ State.reset.seq = 0 ∧ State.reset.txf = none ∧ State.reset.filter = none ∧
  State.reset.arqState = .idle ∧ State.reset.attempts = 0 ∧ State.reset.timer = 0 ∧ State.reset.rxf = none ∧
  State.reset.peer = none ∧ State.reset.result = .none ∧ State.reset.rxq = []

/-- The reset input, at any time and in any state, sets every register to its reset value (R260); it keeps the
parameters and `TXLOG` (R261); it abandons a running command without a result (R262). -/
def Obligations.ResetFromAnyState : Prop :=
  ∀ (s : State) (later : List Turn), s.turns = .reset :: later →
    ∃ t, step s = .next t ∧
      t.linkState = .closed ∧ t.seq = 0 ∧ t.txf = none ∧ t.filter = none ∧ t.arqState = .idle ∧ t.attempts = 0 ∧
      t.timer = 0 ∧ t.rxf = none ∧ t.peer = none ∧ t.result = .none ∧ t.rxq = [] ∧
      t.config = s.config ∧ t.txlog = s.txlog

/-! ## Acceptance, dispatch and fetch -/

/-- While the core is busy the host has no step: no command of the ten has any effect, and the host's turn passes
with its commands kept (R30, R239). -/
def Obligations.BusyCoreTakesNoCommand : Prop :=
  ∀ s : State, s.busy = true →
    (∀ i : Instr, i.asFrame = none → exec i s = .next s) ∧
    (∀ later, s.turns = .host :: later → step s = .next { s with turns := later })

/-- The frame of the eight commands that are over in the step that accepts them (R30): the ARQ registers keep their
values; `SEQ` is written by SEQADV only, `TXF` by BUILD only, `RXF` and `PEER` by LRECV only, `TXLOG` by LSEND only,
`LINK_STATE` by OPEN and CLOSE only, `RXQ` by OPEN, CLOSE and LRECV only. -/
def Obligations.NonArqCommandsFrame : Prop :=
  ∀ (i : Instr) (s t : State), i.asFrame = none → (∀ a f, i ≠ .rsend a f) → (∀ f, i ≠ .rrecv f) →
    exec i s = .next t →
    t.arqState = s.arqState ∧ t.attempts = s.attempts ∧ t.timer = s.timer ∧ t.txdest = s.txdest ∧
    t.filter = s.filter ∧ t.config = s.config ∧ t.grant = s.grant ∧ t.commands = s.commands ∧ t.turns = s.turns ∧
    (i ≠ .seqadv → t.seq = s.seq) ∧
    ((∀ a b c d, i ≠ .build a b c d) → t.txf = s.txf) ∧
    ((∀ f, i ≠ .lrecv f) → t.rxf = s.rxf ∧ t.peer = s.peer) ∧
    ((∀ a, i ≠ .lsend a) → t.txlog = s.txlog) ∧
    (i ≠ .openHandle → i ≠ .closeHandle → t.linkState = s.linkState) ∧
    (i ≠ .openHandle → i ≠ .closeHandle → (∀ f, i ≠ .lrecv f) → t.rxq = s.rxq)

/-- A step runs the decoded instruction. With the host to move and the core ready, it runs what the next command's bytes
decode to, the command taken from the host's queue; with the core to move and polling, it runs the frame the oldest
datagram decodes to, the datagram taken from `RXQ`; the turn is taken from the schedule. -/
def Obligations.StepRunsTheDecodedInstruction : Prop :=
  (∀ (s : State) (i : Instr) (bytes : List Byte) (cmds : List (List Byte)) (later : List Turn),
    s.turns = .host :: later → s.ready = true → s.commands = bytes :: cmds →
    decode .command bytes = .ok (i, []) →
    step s = exec i { s with commands := cmds, turns := later }) ∧
  (∀ (s : State) (i : Instr) (d : Datagram) (rest : List Byte) (ds : List Datagram) (later : List Turn),
    s.turns = .core :: later → s.polling = true → s.rxq = d :: ds → decode .receive d = .ok (i, rest) →
    step s = exec i { s with rxq := ds, turns := later })

/-- An instruction placed by `withFetchWord` is the one the next step runs, whatever the state (log entry 9): the
step is `exec` of it, in a state that is ready for a command and polling for a frame. -/
def Obligations.PlacedWordRunsNext : Prop :=
  ∀ (s : State) (nbits w : Nat) (i : Instr), decodeTableWord nbits w = some i →
    ∃ t, step (s.withFetchWord nbits w) = exec i t ∧ t.turns = s.turns ∧ t.commands = s.commands ∧
      t.rxq = s.rxq ∧ (i.port = .command → t.ready = true) ∧ (i.port = .receive → t.polling = true)

/-! ## The whole machine -/

/-- Every step from a legal state answers a legal state. -/
def Obligations.StepKeepsLegal : Prop :=
  ∀ s t : State, s.Legal → step s = .next t → t.Legal

/-- The reset state is legal. -/
def Obligations.ResetIsLegal : Prop := State.reset.Legal

/-- From a legal state the machine never stops: every step answers a next state. -/
def Obligations.LegalStepAnswersNext : Prop :=
  ∀ s : State, s.Legal → ∃ t, step s = .next t

/-- `ARQ_STATE` changes only along the transition tables of RSEND (R157) and RRECV (R176), under their conditions, the
command presented among them, and by reset. -/
def Obligations.ArqStateTransitions : Prop :=
  ∀ s t : State, step s = .next t → turnOf s ≠ .reset → t.arqState ≠ s.arqState →
    (s.ready = true ∧ turnOf s = .host ∧ s.linkState = .opened ∧ ∃ bytes cmds, s.commands = bytes :: cmds ∧
      ((∃ dest filter, decode .command bytes = .ok (.rsend dest filter, []) ∧ s.txf ≠ none ∧ t.arqState = .sending) ∨
        ∃ filter, decode .command bytes = .ok (.rrecv filter, []) ∧ t.arqState = .listening)) ∨
    (turnOf s = .core ∧ s.arqState = .sending ∧ t.arqState = .awaitingResponse) ∨
    (turnOf s = .core ∧ s.arqState = .awaitingResponse ∧ s.timer ≠ 0 ∧ t.arqState = .succeeded ∧
      ∃ d rest r a f, s.rxq = d :: rest ∧ unwrap s.config d s.filter = .accept r a ∧ s.txf = some f ∧
        r.sequence = f.sequence ∧ r.type = tAck) ∨
    (turnOf s = .core ∧ s.arqState = .awaitingResponse ∧
      (t.arqState = .sending ∧ s.attempts.toNat + 1 < maxAttempts ∨
        t.arqState = .failed ∧ ¬(s.attempts.toNat + 1 < maxAttempts)) ∧
      (s.timer = 0 ∨ ∃ d rest r a f, s.rxq = d :: rest ∧ unwrap s.config d s.filter = .accept r a ∧
        s.txf = some f ∧ r.sequence = f.sequence ∧ r.type = tNack)) ∨
    (turnOf s = .core ∧ s.arqState = .listening ∧ s.timer ≠ 0 ∧ t.arqState = .succeeded ∧
      ∃ d rest f a, s.rxq = d :: rest ∧ unwrap s.config d s.filter = .accept f a) ∨
    (turnOf s = .core ∧ s.arqState = .listening ∧ s.timer = 0 ∧ t.arqState = .failed)

/-- "`Failed` is left only by reset" (R35). -/
def Obligations.FailedHandleLeftOnlyByReset : Prop :=
  ∀ s t : State, step s = .next t → s.linkState = .failed → turnOf s ≠ .reset → t.linkState = .failed

/-- "No other command, no ARQ step and no inbound frame reads or writes" `SEQ` (R21): a step that changes it is a
reset, or the host's SEQADV on a ready core. -/
def Obligations.SequenceWrittenOnlyBySeqadv : Prop :=
  ∀ s t : State, step s = .next t → t.seq ≠ s.seq →
    turnOf s = .reset ∨ (turnOf s = .host ∧ s.ready = true ∧ ∃ cmds, s.commands = [0x41] :: cmds)

/-- A running command's transmit buffer, destination and filter do not change before it is over (R67, R23). What one step
of it emits is fixed by the state: the transmit step of RSEND emits `TXF` to `TXDEST` (R152), the poll step of RRECV the ACK
or NACK of the datagram it pops (R172, R173), and no other step anything. So every attempt of one RSEND emits the same bytes
(R67): over any number of its steps, what is added to `TXLOG` is copies of one datagram. -/
def Obligations.RunningCommandKeepsItsOperands : Prop :=
  (∀ s t : State, step s = .next t → s.busy = true → turnOf s ≠ .reset →
    t.txf = s.txf ∧ t.txdest = s.txdest ∧ t.filter = s.filter ∧
      (t.txlog = s.txlog ∨
        (turnOf s = .core ∧ s.arqState = .listening ∧ s.timer ≠ 0 ∧
          ∃ d rest, s.rxq = d :: rest ∧ t.rxq = rest ∧
            ((∃ f a, unwrap s.config d s.filter = .accept f a ∧
                t.txlog = s.txlog ++ [wrap s.config (ackFrame f.sequence) a]) ∨
              ∃ q a, unwrap s.config d s.filter = .mismatch q a ∧
                t.txlog = s.txlog ++ [wrap s.config (nackFrame (q.setWidth 5)) a])) ∨
        (turnOf s = .core ∧ s.arqState = .sending ∧
          ∃ f, s.txf = some f ∧ t.txlog = s.txlog ++ [wrap s.config f s.txdest]))) ∧
  (∀ (n : Nat) (s t : State) (f : Frame), (s.arqState = .sending ∨ s.arqState = .awaitingResponse) →
    s.txf = some f → (∀ m < n, ∃ u, runSteps m s = .next u ∧ u.busy = true ∧ turnOf u ≠ .reset) →
    runSteps n s = .next t →
    ∃ k, t.txlog = s.txlog ++ List.replicate k (wrap s.config f s.txdest))

/-- `RXF` and `PEER` are written together, and only, when LRECV returns `Frame` or the poll step of RRECV accepts a
frame (R24), and by reset: the step took the oldest datagram, and it was accepted under LRECV's operand, or under the
filter RRECV latched. -/
def Obligations.ReceiveBufferWrittenOnlyOnAcceptance : Prop :=
  ∀ s t : State, step s = .next t → (t.rxf ≠ s.rxf ∨ t.peer ≠ s.peer) → turnOf s ≠ .reset →
    ∃ d rest filter f a, s.rxq = d :: rest ∧ t.rxq = rest ∧ unwrap s.config d filter = .accept f a ∧
      t.rxf = some f ∧ t.peer = some a ∧
      ((turnOf s = .host ∧ s.ready = true ∧ t.result = .frame ∧
          ∃ bytes cmds, s.commands = bytes :: cmds ∧ decode .command bytes = .ok (.lrecv filter, [])) ∨
        (turnOf s = .core ∧ s.arqState = .listening ∧ s.timer ≠ 0 ∧ filter = s.filter ∧ t.result = .received))

/-- `Succeeded` means a matching ACK was popped, nothing more (R163, R64): a core whose step ends RSEND with
`Succeeded` has popped a datagram that parsed as an intact frame of type ACK with the sequence of `TXF`. -/
def Obligations.SucceededMeansMatchingAckPopped : Prop :=
  ∀ s t : State, step s = .next t → s.busy = true → t.result = .succeeded → s.result ≠ .succeeded →
    ∃ d rest r a f, s.rxq = d :: rest ∧ t.rxq = rest ∧ intact d = true ∧
      unwrap s.config d s.filter = .accept r a ∧ s.txf = some f ∧ r.type = tAck ∧ r.sequence = f.sequence

/-- No step changes the parameters (R34), and no step takes a datagram back from the transmit history (R39, R261). -/
def Obligations.ParametersAndHistoryKept : Prop :=
  ∀ s t : State, step s = .next t → t.config = s.config ∧ ∃ sent, t.txlog = s.txlog ++ sent ∧ sent.length ≤ 1

/-- One RSEND makes at most 5 transmissions (R161): on every step of a running RSEND the datagrams sent and those it
may still send do not grow in sum, and its acceptance leaves it 5. -/
def Obligations.SendBound : Prop :=
  (∀ s t : State, step s = .next t → (s.arqState = .sending ∨ s.arqState = .awaitingResponse) →
    s.attempts.toNat < maxAttempts → t.txlog.length + sendsLeft t ≤ s.txlog.length + sendsLeft s) ∧
  (∀ (dest : Addr) (filter : Filter) (s t : State), s.ready = true → exec (.rsend dest filter) s = .next t →
    t.arqState = .sending → sendsLeft t = maxAttempts)

/-- The bound of R161 and R178 on timer ticks: no step of a running ARQ command gives it more ticks, every tick of a
running deadline takes one away, and RSEND starts with at most 10 000. That the command ends is not said here; it needs a
clock that keeps ticking and a core that takes its steps. -/
def Obligations.TickBound : Prop :=
  (∀ s t : State, step s = .next t → s.busy = true → s.timer.toNat ≤ timeoutMs →
    (s.arqState = .listening ∨ s.attempts.toNat < maxAttempts) →
    ticksLeft t ≤ ticksLeft s ∧ (turnOf s = .tick → s.polling = true → ticksLeft t + 1 = ticksLeft s)) ∧
  (∀ s : State, s.arqState = .sending → ticksLeft s ≤ 10000)

/-- If no datagram ever arrives, RSEND fails with `Failed(NoAcknowledgment)` after exactly 5 transmissions and
exactly 10 000 ticks (R162 (c)): the run of the turns `silentSend`, from any state in which RSEND was just accepted,
whatever turns follow. -/
def Obligations.SilentLinkFailsAfterFive : Prop :=
  ∀ (s : State) (f : Frame) (later : List Turn), s.arqState = .sending → s.attempts = 0 → s.txf = some f →
    s.rxq = [] → s.turns = silentSend ++ later →
    silentSend.count .tick = 10000 ∧
    ∃ t, runSteps silentSend.length s = .next t ∧ t.result = .failedNoAck ∧ t.arqState = .failed ∧
      t.attempts = 5 ∧ t.txlog = s.txlog ++ List.replicate 5 (wrap s.config f s.txdest) ∧ t.turns = later

/-- If the first transmission is answered by a matching ACK popped before its deadline, RSEND completes `Succeeded`
with `ATTEMPTS = 0` and exactly 1 datagram emitted (R162 (a)), whatever number of ticks below 2000 passes first. -/
def Obligations.FirstAckSucceeds : Prop :=
  ∀ (s : State) (f : Frame) (d : Datagram) (r : Frame) (a : Addr) (n : Nat) (later : List Turn),
    s.arqState = .sending → s.attempts = 0 → s.txf = some f → s.rxq = [] → s.linkState = .opened →
    s.config.rxqDepth ≠ some 0 → unwrap s.config d s.filter = .accept r a → r.sequence = f.sequence → r.type = 0 →
    n < 2000 → s.turns = .core :: (List.replicate n .tick ++ [.link d, .core]) ++ later →
    ∃ t, runSteps (n + 3) s = .next t ∧ t.result = .succeeded ∧ t.arqState = .succeeded ∧
      t.attempts = 0 ∧ t.txlog = s.txlog ++ [wrap s.config f s.txdest] ∧ t.turns = later

/-- Which command can end in which result (R231). For RSEND and RRECV, `None` is the running command, which its
steps end in the results of the second part. -/
def Obligations.ResultsOfEachCommand : Prop :=
  (∀ (i : Instr) (s t : State), s.ready = true → exec i s = .next t →
    (i = .openHandle ∨ i = .closeHandle → t.result ∈ [.ok, .transportError]) ∧
    ((∃ a b c d, i = .build a b c d) → t.result ∈ [.ok, .lengthError]) ∧
    ((∃ f, i = .validate f) → ∃ b, t.result = .valid b) ∧
    ((∃ a, i = .lsend a) → t.result ∈ [.ok, .noTxFrame, .transportError]) ∧
    ((∃ f, i = .lrecv f) → t.result ∈ [.frame, .reject, .noFrame, .transportError] ∨
      ∃ q a, t.result = .checksumMismatch q a) ∧
    ((∃ a f, i = .rsend a f) → t.result ∈ [.none, .noTxFrame, .transportError]) ∧
    ((∃ f, i = .rrecv f) → t.result ∈ [.none, .transportError]) ∧
    (i = .seqrd → ∃ q, t.result = .seqValue q) ∧
    (i = .seqadv → t.result = .ok)) ∧
  (∀ s t : State, step s = .next t → turnOf s ≠ .reset → s.busy = true → t.busy = false →
    (s.arqState = .sending ∨ s.arqState = .awaitingResponse → t.result ∈ [.succeeded, .failedNoAck]) ∧
    (s.arqState = .listening → t.result ∈ [.received, .failedTimeout]))

/-! ## Two cores and the host's sequences -/

/-- Two cores configured alike (R264) on a faithful link (R63) with nothing on its way, the pair and its link being the
model's own definitions (log entry 13): one has just accepted RSEND of a sound frame, the other is listening with its
deadline running. The sender's transmit step, the listener's poll and the sender's poll, the link bringing each datagram as
it is emitted, then deliver the frame unchanged: one datagram each way, `Succeeded` and `Received` (R152, R153, R172). -/
def Obligations.FaithfulExchangeDelivers : Prop :=
  ∀ (x : Exchange) (f : Frame),
    x.faithful → x.ab.waiting = [] → x.ba.waiting = [] →
    x.a.arqState = .sending → x.a.txf = some f → soundFrame f = true →
    x.b.arqState = .listening → x.b.timer ≠ 0 →
    x.a.linkState = .opened → x.b.linkState = .opened → x.a.rxq = [] → x.b.rxq = [] →
    x.a.config.rxqDepth ≠ some 0 → x.b.config.rxqDepth ≠ some 0 →
    x.a.config.startMarker = x.b.config.startMarker → x.a.config.ethertype = x.b.config.ethertype →
    (x.a.filter = none ∨ x.a.filter = some x.a.config.srcPattern) →
    (x.b.filter = none ∨ x.b.filter = some x.a.txdest) →
    ∃ y, exchangeTurns [.core .a, .bring .a, .core .b, .bring .b, .core .a] x = .next y ∧
      y.faithful ∧ y.ab.waiting = [] ∧ y.ba.waiting = [] ∧
      y.a.result = .succeeded ∧ y.a.arqState = .succeeded ∧ y.a.attempts = x.a.attempts ∧
      y.a.txlog = x.a.txlog ++ [wrap x.a.config f x.a.txdest] ∧ y.a.rxq = [] ∧
      y.b.result = .received ∧ y.b.arqState = .succeeded ∧ y.b.rxf = some f ∧
      y.b.peer = some x.a.config.srcPattern ∧ y.b.rxq = [] ∧
      y.b.txlog = x.b.txlog ++ [wrap x.b.config (ackFrame f.sequence) x.a.config.srcPattern]

/-- The chunked transfer (R202, R203) of a resource whose name fits one frame: first the metadata frame, whose type
encodes the category and whose payload is the name, then `ceil(n / 127)` DATA frames of 1 to 127 bytes, all but the last of
127, in order, then the empty END_OF_FILE frame. Every frame is one that `SENDONE` can send (R201). What follows the
metadata frame reassembles to the resource (R204). The sequences stand outside the block as pure functions, and a longer
name is left open (log entry 14). -/
def Obligations.TransferSplitsAndReassembles : Prop :=
  ∀ (category : Category) (name content : List Byte), name.length ≤ 127 →
    (transferFrames category name content).head? = some (category.tag, name) ∧
    (category = .text → category.tag = 6) ∧ (category = .video → category.tag = 7) ∧
    (category = .image → category.tag = 8) ∧
    (transferFrames category name content).tail = (chunks content).map (fun c => ((5 : Byte), c)) ++ [(9, [])] ∧
    (transferFrames category name content).length = 1 + (content.length + 126) / 127 + 1 ∧
    (∀ c ∈ chunks content, 1 ≤ c.length ∧ c.length ≤ 127) ∧
    (∀ c ∈ (chunks content).dropLast, c.length = 127) ∧
    (chunks content).flatten = content ∧
    (∀ p ∈ transferFrames category name content, ∀ (q : BitVec 5) (dest : Addr) (filter : Filter),
      p.2.length ≤ 127 ∧ ∀ i ∈ sendOne q p.1 p.2 dest filter, i.wf = true) ∧
    reassemble ((transferFrames category name content).drop 1) = some content
end

