-- ==== Sys2Proof/Laws/Decode.lean ====
section
/-! SUPPORT. What each operand reader does on the bytes its writer wrote, and the size of each field's bytes. -/

namespace Sys2Proof

@[simp] theorem addrBytes_length (a : Addr) : (addrBytes a).length = 6 := rfl

@[simp] theorem filterBytes_length (f : Filter) : (filterBytes f).length = 7 := by cases f <;> rfl

@[simp] theorem envelopeBytes_length (e : Envelope) : (envelopeBytes e).length = 14 := rfl

@[simp] theorem frameBytes_length (t : BitVec 4) (b : Body) :
    (frameBytes t b).length = 5 + b.payload.length := by simp [frameBytes]; omega

@[simp] theorem datagramBytes_length (t : BitVec 4) (e : Envelope) (b : Body) :
    (datagramBytes t e b).length = 19 + b.payload.length := by simp [datagramBytes]; omega

@[simp] theorem takeAddr_addrBytes (a : Addr) (rest : List Byte) :
    takeAddr (addrBytes a ++ rest) = some (a, rest) := rfl

@[simp] theorem takeFilter_filterBytes (f : Filter) (rest : List Byte) :
    takeFilter (filterBytes f ++ rest) = .ok (f, rest) := by cases f <;> rfl

theorem takeBytes_append {n : Nat} {p : List Byte} (h : p.length = n) (rest : List Byte) :
    takeBytes n (p ++ rest) = some (p, rest) := by
  subst h
  simp [takeBytes]

/-- What `takeBytes` answers, when it answers. -/
theorem takeBytes_some {n : Nat} {bs p rest : List Byte} (h : takeBytes n bs = some (p, rest)) :
    p.length = n ∧ p ++ rest = bs := by
  unfold takeBytes at h
  split at h
  · obtain ⟨rfl, rfl⟩ := (by simpa using h : bs.take n = p ∧ bs.drop n = rest)
    simp; omega
  · cases h

/-- What `takeAddr` answers, when it answers. -/
theorem takeAddr_some {bs rest : List Byte} {a : Addr} (h : takeAddr bs = some (a, rest)) :
    addrBytes a ++ rest = bs := by
  unfold takeAddr at h
  split at h
  · cases h; rfl
  · cases h

/-- What `takeFilter` answers, when it answers: a filter's own bytes; of an absent one the flag and any address. -/
theorem takeFilter_ok {bs rest : List Byte} {f : Filter} (h : takeFilter bs = .ok (f, rest)) :
    (f ≠ none → filterBytes f ++ rest = bs) ∧ (f = none → ∃ a, 0 :: (addrBytes a ++ rest) = bs) := by
  unfold takeFilter at h
  split at h
  · cases h
  rename_i flag bs'
  split at h
  · rename_i hf
    split at h
    · cases h
    rename_i a rest' ha
    cases h
    obtain rfl := takeAddr_some ha
    rcases hf with rfl | rfl
    · simp
    · simp [filterBytes]
  · cases h

/-- The two ethertype bytes make the ethertype again. -/
@[simp] theorem etherHi_append_etherLo (t : BitVec 16) : etherHi t ++ etherLo t = t := by
  ext i hi
  simp only [etherHi, etherLo, BitVec.getElem_append, BitVec.getElem_extractLsb']
  split
  · simp [BitVec.getLsbD_eq_getElem hi]
  · rw [show 8 + (i - 8) = i by omega, BitVec.getLsbD_eq_getElem hi]

@[simp] theorem etherHi_of_append (hi lo : Byte) : etherHi (hi ++ lo) = hi := by
  ext i hi'
  have := BitVec.getLsbD_append (x := hi) (y := lo) (i := 8 + i)
  simpa [etherHi, BitVec.getLsbD_eq_getElem hi'] using this

@[simp] theorem etherLo_of_append (hi lo : Byte) : etherLo (hi ++ lo) = lo := by
  ext i hi'
  have := BitVec.getLsbD_append (x := hi) (y := lo) (i := i)
  simpa [etherLo, hi', BitVec.getLsbD_eq_getElem hi'] using this

/-- A header whose fields were widened with zeros is in range. -/
@[simp] theorem headerInRange_setWidth (l : BitVec 7) (s : BitVec 5) (t : BitVec 4) :
    headerInRange (l.setWidth 8) (s.setWidth 8) (t.setWidth 8) = true := by
  have hl := l.isLt; have hs := s.isLt; have ht := t.isLt
  simp only [headerInRange, BitVec.toNat_setWidth, Bool.and_eq_true, decide_eq_true_eq]
  omega

/-- Narrowing a header byte that is in range and widening it again gives it back. -/
theorem setWidth_narrow {n : Nat} {b : Byte} (h : b.toNat < 2 ^ n) : (b.setWidth n).setWidth 8 = b := by
  apply BitVec.eq_of_toNat_eq
  have := b.isLt
  simp only [BitVec.toNat_setWidth, Nat.mod_eq_of_lt h]
  exact Nat.mod_eq_of_lt this

theorem setWidth_widen {n : Nat} (h : n ≤ 8) (b : BitVec n) : ((b.setWidth 8).setWidth n) = b := by
  apply BitVec.eq_of_toNat_eq
  have h1 := b.isLt
  have h2 : 2 ^ n ≤ 2 ^ 8 := Nat.pow_le_pow_right (by decide) h
  simp only [BitVec.toNat_setWidth]
  rw [Nat.mod_eq_of_lt (by omega : b.toNat < 2 ^ 8), Nat.mod_eq_of_lt h1]

/-- The sixteen values of a type field (R85). -/
theorem tag_cases (t : BitVec 4) :
    t = 0 ∨ t = 1 ∨ t = 2 ∨ t = 3 ∨ t = 4 ∨ t = 5 ∨ t = 6 ∨ t = 7 ∨ t = 8 ∨
    t = 9 ∨ t = 10 ∨ t = 11 ∨ t = 12 ∨ t = 13 ∨ t = 14 ∨ t = 15 := by
  revert t; decide

/-- The row a tag selects is a frame of that tag. -/
@[simp] theorem frameInstr_asFrame (t : BitVec 4) (e : Envelope) (b : Body) :
    (frameInstr t e b).asFrame = some (t, e, b) := by
  rcases tag_cases t with h | h | h | h | h | h | h | h | h | h | h | h | h | h | h | h <;> subst h <;> rfl

/-- A frame is the row its tag selects. -/
theorem asFrame_some {i : Instr} {t : BitVec 4} {e : Envelope} {b : Body} (h : i.asFrame = some (t, e, b)) :
    i = frameInstr t e b := by
  cases i <;> simp only [Instr.asFrame, Option.some.injEq, Prod.mk.injEq, reduceCtorEq] at h <;>
    obtain ⟨rfl, rfl, rfl⟩ := h <;> rfl

/-- The bytes of a frame are those of its row's tag. -/
@[simp] theorem encode_frameInstr (t : BitVec 4) (e : Envelope) (b : Body) :
    encode (frameInstr t e b) = datagramBytes t e b := by
  rcases tag_cases t with h | h | h | h | h | h | h | h | h | h | h | h | h | h | h | h <;> subst h <;> rfl

/-- A frame is well-formed when its body is. -/
@[simp] theorem frameInstr_wf (t : BitVec 4) (e : Envelope) (b : Body) : (frameInstr t e b).wf = b.wf := by
  rcases tag_cases t with h | h | h | h | h | h | h | h | h | h | h | h | h | h | h | h <;> subst h <;> rfl

/-- Decoding what `datagramBytes` wrote, whatever follows it. -/
theorem decodeDatagram_datagramBytes {b : Body} (h : b.wf = true) (t : BitVec 4) (e : Envelope)
    (rest : List Byte) : decodeDatagram (datagramBytes t e b ++ rest) = .ok (frameInstr t e b, rest) := by
  have hp : b.payload.length = (b.length.setWidth 8).toNat := by
    have := b.length.isLt
    simp only [Body.wf, beq_iff_eq] at h
    simp only [BitVec.toNat_setWidth, h]
    omega
  simp only [decodeDatagram, datagramBytes, envelopeBytes, List.append_assoc, takeAddr_addrBytes, takeTyped,
    frameBytes, List.cons_append, List.nil_append, takeFrame, headerInRange_setWidth, if_true,
    takeBytes_append hp, etherHi_append_etherLo]
  rw [setWidth_widen (by decide), setWidth_widen (by decide), setWidth_widen (by decide)]

/-- A datagram that decodes is the bytes of its instruction and what follows them, and the instruction is
well-formed. -/
theorem decodeDatagram_ok {d : Datagram} {i : Instr} {rest : List Byte}
    (h : decodeDatagram d = .ok (i, rest)) : ∃ t e b, i = frameInstr t e b ∧ b.wf = true ∧
      datagramBytes t e b ++ rest = d := by
  unfold decodeDatagram at h
  split at h
  · cases h
  · rename_i dest d1 h1
    split at h
    · cases h
    · rename_i src d2 h2
      obtain rfl := takeAddr_some h1
      obtain rfl := takeAddr_some h2
      unfold takeTyped at h
      split at h
      · rename_i hi lo d3
        unfold takeFrame at h
        split at h
        · rename_i marker l s t ck d4
          split at h
          · rename_i hr
            simp only [headerInRange, Bool.and_eq_true, decide_eq_true_eq] at hr
            split at h
            · cases h
            · rename_i payload rest' h3
              obtain ⟨hlen, rfl⟩ := takeBytes_some h3
              cases h
              refine ⟨_, _, _, rfl, ?_, ?_⟩
              · simp only [Body.wf, beq_iff_eq, hlen, BitVec.toNat_setWidth]
                omega
              · simp only [datagramBytes, envelopeBytes, frameBytes, etherHi_of_append, etherLo_of_append]
                rw [setWidth_narrow (by omega), setWidth_narrow (by omega), setWidth_narrow (by omega)]
                simp
          · cases h
        · cases h
      · cases h

/-! ## Commands: what decodes is a prefix, and decodes alike whatever follows it -/
theorem takeBytes_prefix {n : Nat} {bs p rest : List Byte} (h : takeBytes n bs = some (p, rest)) :
    bs = p ++ rest ∧ ∀ r, takeBytes n (p ++ r) = some (p, r) := by
  obtain ⟨h1, h2⟩ := takeBytes_some h
  exact ⟨h2.symm, fun r => takeBytes_append h1 r⟩

theorem takeAddr_prefix {bs rest : List Byte} {a : Addr} (h : takeAddr bs = some (a, rest)) :
    ∃ p, p.length = 6 ∧ bs = p ++ rest ∧ ∀ r, takeAddr (p ++ r) = some (a, r) :=
  ⟨addrBytes a, rfl, (takeAddr_some h).symm, fun r => takeAddr_addrBytes a r⟩

theorem takeFilter_prefix {bs rest : List Byte} {f : Filter} (h : takeFilter bs = .ok (f, rest)) :
    ∃ p, p.length = 7 ∧ bs = p ++ rest ∧ ∀ r, takeFilter (p ++ r) = .ok (f, r) := by
  unfold takeFilter at h
  split at h
  · cases h
  · rename_i flag bs'
    split at h
    · rename_i hf
      split at h
      · cases h
      · rename_i a rest' ha
        cases h
        obtain ⟨p, h1, h2, h3⟩ := takeAddr_prefix ha
        exact ⟨flag :: p, by simp [h1], by simp [h2], fun r => by simp only [List.cons_append, takeFilter, if_pos hf, h3]⟩
    · cases h

theorem decodeCommand_prefix {bs rest : List Byte} {i : Instr} (h : decodeCommand bs = .ok (i, rest)) :
    i.wf = true ∧ i.asFrame = none ∧ ∃ p, (encode i).length = p.length ∧ bs = p ++ rest ∧
      ∀ r, decodeCommand (p ++ r) = .ok (i, r) := by
  unfold decodeCommand at h
  split at h
  · cases h
  rename_i code bs'
  split at h
  · rename_i hc; cases h; exact ⟨rfl, rfl, [code], rfl, rfl, fun r => by simp [decodeCommand, hc]⟩
  split at h
  · rename_i hc; cases h; exact ⟨rfl, rfl, [code], rfl, rfl, fun r => by simp [decodeCommand, hc]⟩
  split at h
  · rename_i hc
    unfold takeBuild at h
    split at h
    · rename_i seq typ len bs2
      split at h
      · cases h
      · rename_i payload rest' hb
        cases h
        obtain ⟨h1, h2⟩ := takeBytes_prefix hb
        have hl := (takeBytes_some hb).1
        exact ⟨by simp [Instr.wf, hl], rfl, code :: seq :: typ :: len :: payload, by simp [encode], by simp [h1],
          fun r => by simp [decodeCommand, hc, takeBuild, h2]⟩
    · cases h
  split at h
  · rename_i hc
    unfold takeValidate at h
    split at h
    · rename_i l s t ck bs2
      split at h
      · rename_i hr
        split at h
        · cases h
        · rename_i payload rest' hb
          cases h
          obtain ⟨h1, h2⟩ := takeBytes_prefix hb
          have hl := (takeBytes_some hb).1
          refine ⟨?_, rfl, code :: l :: s :: t :: ck :: payload, by simp [encode], by simp [h1],
            fun r => by simp [decodeCommand, hc, takeValidate, hr, h2]⟩
          simp only [headerInRange, Bool.and_eq_true, decide_eq_true_eq] at hr
          simp only [Instr.wf, Frame.wf, hl, BitVec.toNat_setWidth, beq_iff_eq]; omega
      · cases h
    · cases h
  split at h
  · rename_i hc
    unfold takeLsend at h
    split at h
    · cases h
    · rename_i a r1 ha
      cases h
      obtain ⟨p, h1, h2, h3⟩ := takeAddr_prefix ha
      exact ⟨rfl, rfl, code :: p, by simp [encode, h1], by simp [h2],
        fun r => by simp [decodeCommand, hc, takeLsend, h3]⟩
  split at h
  · rename_i hc
    unfold takeLrecv at h
    split at h
    · cases h
    · rename_i a r1 ha
      cases h
      obtain ⟨p, h1, h2, h3⟩ := takeFilter_prefix ha
      exact ⟨rfl, rfl, code :: p, by simp [encode, h1], by simp [h2],
        fun r => by simp [decodeCommand, hc, takeLrecv, h3]⟩
  split at h
  · rename_i hc
    unfold takeRsend at h
    split at h
    · cases h
    · rename_i a r1 ha
      split at h
      · cases h
      · rename_i f r2 hf
        cases h
        obtain ⟨p, h1, h2, h3⟩ := takeAddr_prefix ha
        obtain ⟨q, g1, g2, g3⟩ := takeFilter_prefix hf
        exact ⟨rfl, rfl, code :: (p ++ q), by simp [encode, h1, g1], by simp [h2, g2],
          fun r => by simp [decodeCommand, hc, takeRsend, h3, g3]⟩
  split at h
  · rename_i hc
    unfold takeRrecv at h
    split at h
    · cases h
    · rename_i a r1 ha
      cases h
      obtain ⟨p, h1, h2, h3⟩ := takeFilter_prefix ha
      exact ⟨rfl, rfl, code :: p, by simp [encode, h1], by simp [h2],
        fun r => by simp [decodeCommand, hc, takeRrecv, h3]⟩
  split at h
  · rename_i hc; cases h; exact ⟨rfl, rfl, [code], rfl, rfl, fun r => by simp [decodeCommand, hc]⟩
  split at h
  · rename_i hc; cases h; exact ⟨rfl, rfl, [code], rfl, rfl, fun r => by simp [decodeCommand, hc]⟩
  · cases h

/-! ## The table's rows -/

/-- The bytes kept of a row that decodes decode to its instruction; a command's are exactly its own. -/
theorem tableWord_decodes {nbits w i} (h : decodeTableWord nbits w = some i) :
    ∃ r, decode (tablePort nbits) (tableWordBytes nbits w) = .ok (i, r) ∧ (tablePort nbits = .command → r = []) := by
  unfold decodeTableWord at h
  split at h
  · rename_i i' rest hd
    cases h
    unfold tableWordBytes
    rw [hd]
    simp only
    generalize tableBytes nbits w = bs at hd
    generalize tablePort nbits = p at hd
    cases p with
    | command =>
      obtain ⟨-, -, q, -, rfl, h3⟩ := decodeCommand_prefix hd
      refine ⟨[], ?_, fun _ => rfl⟩
      have := h3 []
      simpa [decode] using this
    | receive =>
      obtain ⟨t, e, b, rfl, hb, rfl⟩ := decodeDatagram_ok hd
      refine ⟨[], ?_, by simp⟩
      have := decodeDatagram_datagramBytes hb t e []
      simpa [decode] using this
  · cases h

end Sys2Proof
end

