-- ==== Sys2Proof/Laws/Link.lean ====
section
/-! SUPPORT. What the checksum, `build`, `wrap` and `unwrap` do, said once each. -/

namespace Sys2Proof.Machine

/-! ## The checksum -/

theorem foldXor_append (xs ys : List Byte) : foldXor (xs ++ ys) = foldXor xs ^^^ foldXor ys := by
  induction xs with
  | nil => simp [foldXor]
  | cons x xs ih => simp [foldXor, ih, BitVec.xor_assoc]

/-- Replacing one byte changes the fold by `old ^ new` (R118). -/
theorem foldXor_set (xs : List Byte) (i : Nat) (h : i < xs.length) (b : Byte) :
    foldXor (xs.set i b) = foldXor xs ^^^ xs[i] ^^^ b := by
  induction xs generalizing i with
  | nil => simp at h
  | cons x xs ih =>
    cases i with
    | zero =>
      simp only [List.set_cons_zero, foldXor, List.getElem_cons_zero]
      rw [BitVec.xor_comm x, BitVec.xor_assoc (foldXor xs), BitVec.xor_self, BitVec.xor_zero,
        BitVec.xor_comm]
    | succ i =>
      simp only [List.set_cons_succ, foldXor, List.getElem_cons_succ]
      rw [ih i (by simpa using h)]
      simp only [BitVec.xor_assoc]

/-- `build` makes a sound frame (R117). -/
theorem validate_build (seq typ : Byte) (payload : List Byte) (len : Byte) :
    validate (build seq typ payload len) = true := by
  simp [validate, build]

theorem build_wf {seq typ len : Byte} {payload : List Byte} (h1 : len.toNat ≤ maxPayload)
    (h2 : payload.length = len.toNat) : (build seq typ payload len).wf = true := by
  unfold maxPayload at h1
  simp only [Frame.wf, build, h2, BitVec.toNat_setWidth, beq_iff_eq]
  omega

/-! ## wrap and unwrap -/

/-- `wrap` is the datagram of the frame in the core's own envelope. -/
theorem wrap_eq_datagramBytes (c : Config) (f : Frame) (dest : Addr) :
    wrap c f dest = datagramBytes f.type ⟨dest, c.srcPattern, c.ethertype⟩
      ⟨c.startMarker, f.length, f.sequence, f.checksum, f.payload⟩ := by
  simp [wrap, datagramBytes, envelopeBytes, frameBytes]

@[simp] theorem wrap_length (c : Config) (f : Frame) (dest : Addr) :
    (wrap c f dest).length = 19 + f.payload.length := by
  rw [wrap_eq_datagramBytes, datagramBytes_length]

theorem ether_eq_iff (s t : BitVec 16) : s = t ↔ etherHi s = etherHi t ∧ etherLo s = etherLo t := by
  constructor
  · rintro rfl; exact ⟨rfl, rfl⟩
  · rintro ⟨h1, h2⟩
    rw [← etherHi_append_etherLo s, ← etherHi_append_etherLo t, h1, h2]

section Bytes

variable (t : BitVec 4) (e : Envelope) (b : Body) (rest : List Byte)

@[simp] theorem byteAt_12 : byteAt (datagramBytes t e b ++ rest) 12 = etherHi e.ethertype := rfl
@[simp] theorem byteAt_13 : byteAt (datagramBytes t e b ++ rest) 13 = etherLo e.ethertype := rfl
@[simp] theorem byteAt_14 : byteAt (datagramBytes t e b ++ rest) 14 = b.marker := rfl
@[simp] theorem byteAt_15 : byteAt (datagramBytes t e b ++ rest) 15 = b.length.setWidth 8 := rfl
@[simp] theorem byteAt_16 : byteAt (datagramBytes t e b ++ rest) 16 = b.sequence.setWidth 8 := rfl
@[simp] theorem byteAt_17 : byteAt (datagramBytes t e b ++ rest) 17 = t.setWidth 8 := rfl
@[simp] theorem byteAt_18 : byteAt (datagramBytes t e b ++ rest) 18 = b.checksum := rfl
@[simp] theorem addrAt_0 : addrAt (datagramBytes t e b ++ rest) 0 = e.dest := rfl
@[simp] theorem addrAt_6 : addrAt (datagramBytes t e b ++ rest) 6 = e.src := rfl

theorem payloadAt_datagramBytes (n : Nat) :
    payloadAt (datagramBytes t e b ++ rest) n = (b.payload ++ rest).take n := rfl

end Bytes

/-- The reject tests on a frame's own datagram, field by field (R136). -/
theorem rejected_datagramBytes (c : Config) (t : BitVec 4) (e : Envelope) (b : Body) (rest : List Byte)
    (filter : Filter) : rejected c (datagramBytes t e b ++ rest) filter = true ↔
      ¬(e.ethertype = c.ethertype ∧ filterPasses filter e.dest = true ∧ b.marker = c.startMarker) := by
  simp only [rejected, List.length_append, datagramBytes_length, minDatagram, byteAt_12, byteAt_13, byteAt_14,
    addrAt_0, Bool.or_eq_true, decide_eq_true_eq, bne_iff_ne, Bool.not_eq_true', ether_eq_iff]
  have : ¬(19 + b.payload.length + rest.length < 19) := by omega
  simp only [this, false_or]
  by_cases h1 : etherHi e.ethertype = etherHi c.ethertype <;>
    by_cases h2 : etherLo e.ethertype = etherLo c.ethertype <;>
    by_cases h3 : filterPasses filter e.dest = true <;> simp_all

/-- The integrity test on a frame's own datagram is the checksum comparison, whatever follows it (R57, R137). -/
theorem intact_datagramBytes {b : Body} (h : b.wf = true) (t : BitVec 4) (e : Envelope) (rest : List Byte) :
    intact (datagramBytes t e b ++ rest) = validate (b.frame t) := by
  have hl := b.length.isLt; have hs := b.sequence.isLt; have ht := t.isLt
  have hn : (b.length.setWidth 8).toNat = b.length.toNat := by
    simp only [BitVec.toNat_setWidth]; omega
  have hp : b.payload.length = b.length.toNat := by simpa [Body.wf] using h
  have h3 : 19 + b.length.toNat ≤ 19 + b.length.toNat + rest.length := by omega
  have h1 : b.length.toNat ≤ 127 := by omega
  simp [intact, hn, payloadAt_datagramBytes, minDatagram, ← hp, validate, Body.frame, checksumOf]
  omega

/-- The frame read back from its own datagram (R136). -/
theorem frameOf_datagramBytes {b : Body} (h : b.wf = true) (t : BitVec 4) (e : Envelope) (rest : List Byte) :
    frameOf (datagramBytes t e b ++ rest) = b.frame t := by
  have hl := b.length.isLt
  have hn : (b.length.setWidth 8).toNat = b.length.toNat := by
    simp only [BitVec.toNat_setWidth]; omega
  have hp : b.payload.length = b.length.toNat := by simpa [Body.wf] using h
  simp only [frameOf, byteAt_15, byteAt_16, byteAt_17, byteAt_18, Body.frame, payloadAt_datagramBytes, hn, ← hp,
    List.take_left', setWidth_widen (show 7 ≤ 8 by decide), setWidth_widen (show 5 ≤ 8 by decide),
    setWidth_widen (show 4 ≤ 8 by decide)]

/-- The verdict on a frame's own datagram, whatever follows it (R136, R137, R57). -/
theorem unwrap_datagramBytes {b : Body} (h : b.wf = true) (c : Config) (t : BitVec 4) (e : Envelope)
    (rest : List Byte) (filter : Filter) : unwrap c (datagramBytes t e b ++ rest) filter =
      if e.ethertype = c.ethertype ∧ filterPasses filter e.dest = true ∧ b.marker = c.startMarker then
        if validate (b.frame t) = true then .accept (b.frame t) e.src
        else .mismatch (b.sequence.setWidth 8) e.src
      else .reject := by
  have hr := rejected_datagramBytes c t e b rest filter
  by_cases hc : e.ethertype = c.ethertype ∧ filterPasses filter e.dest = true ∧ b.marker = c.startMarker
  · have : rejected c (datagramBytes t e b ++ rest) filter = false := by
      simpa [hc] using hr
    simp [unwrap, this, intact_datagramBytes h, frameOf_datagramBytes h, hc]
  · simp [unwrap, hr.2 hc, hc]

/-- What an acceptance says of the datagram (R136, R137). -/
theorem unwrap_accept {c : Config} {d : Datagram} {filter : Filter} {f : Frame} {a : Addr}
    (h : unwrap c d filter = .accept f a) :
    rejected c d filter = false ∧ intact d = true ∧ f = frameOf d ∧ a = addrAt d 6 := by
  unfold unwrap at h
  split at h
  · cases h
  · split at h
    · cases h; simp_all
    · cases h

/-- "When `intact(d)` holds, the record built by `unwrap` is a `Frame` in range and `validate` of it is true" (R137). -/
theorem frameOf_intact {d : Datagram} (h : intact d = true) :
    (frameOf d).wf = true ∧ validate (frameOf d) = true := by
  simp only [intact, Bool.and_eq_true, decide_eq_true_eq, beq_iff_eq] at h
  obtain ⟨⟨⟨⟨h1, h2⟩, h3⟩, h4⟩, h5⟩ := h
  unfold minDatagram at h4
  have e1 := setWidth_narrow (b := byteAt d 15) (n := 7) (by omega)
  have e2 := setWidth_narrow (b := byteAt d 16) (n := 5) (by omega)
  have e3 := setWidth_narrow (b := byteAt d 17) (n := 4) (by omega)
  constructor
  · have hn : (BitVec.setWidth 7 (byteAt d 15)).toNat = (byteAt d 15).toNat := by
      simp only [BitVec.toNat_setWidth]; omega
    simp only [Frame.wf, frameOf, payloadAt, List.length_take, List.length_drop, beq_iff_eq]
    rw [hn]
    exact Nat.min_eq_left (by omega)
  · simp only [validate, frameOf, checksumOf, e1, e2, e3, beq_iff_eq, h5]

end Sys2Proof.Machine
end

