-- ==== Sys2Proof/Laws/State.lean ====
section
/-! SUPPORT. One lemma per field per update of the state, so that no proof unfolds a record update. -/

namespace Sys2Proof.Machine

/-! ## finish -/

@[simp] theorem finish_linkState (r : Result) (s : State) : (s.finish r).linkState = s.linkState := rfl
@[simp] theorem finish_seq (r : Result) (s : State) : (s.finish r).seq = s.seq := rfl
@[simp] theorem finish_txf (r : Result) (s : State) : (s.finish r).txf = s.txf := rfl
@[simp] theorem finish_txdest (r : Result) (s : State) : (s.finish r).txdest = s.txdest := rfl
@[simp] theorem finish_filter (r : Result) (s : State) : (s.finish r).filter = s.filter := rfl
@[simp] theorem finish_arqState (r : Result) (s : State) : (s.finish r).arqState = s.arqState := rfl
@[simp] theorem finish_attempts (r : Result) (s : State) : (s.finish r).attempts = s.attempts := rfl
@[simp] theorem finish_timer (r : Result) (s : State) : (s.finish r).timer = s.timer := rfl
@[simp] theorem finish_rxf (r : Result) (s : State) : (s.finish r).rxf = s.rxf := rfl
@[simp] theorem finish_peer (r : Result) (s : State) : (s.finish r).peer = s.peer := rfl
@[simp] theorem finish_result (r : Result) (s : State) : (s.finish r).result = r := rfl
@[simp] theorem finish_rxq (r : Result) (s : State) : (s.finish r).rxq = s.rxq := rfl
@[simp] theorem finish_txlog (r : Result) (s : State) : (s.finish r).txlog = s.txlog := rfl
@[simp] theorem finish_config (r : Result) (s : State) : (s.finish r).config = s.config := rfl
@[simp] theorem finish_grant (r : Result) (s : State) : (s.finish r).grant = s.grant := rfl
@[simp] theorem finish_commands (r : Result) (s : State) : (s.finish r).commands = s.commands := rfl
@[simp] theorem finish_turns (r : Result) (s : State) : (s.finish r).turns = s.turns := rfl

/-! ## endArq -/

@[simp] theorem endArq_linkState (r : Result) (a : ArqState) (s : State) : (s.endArq r a).linkState = s.linkState := rfl
@[simp] theorem endArq_seq (r : Result) (a : ArqState) (s : State) : (s.endArq r a).seq = s.seq := rfl
@[simp] theorem endArq_txf (r : Result) (a : ArqState) (s : State) : (s.endArq r a).txf = s.txf := rfl
@[simp] theorem endArq_txdest (r : Result) (a : ArqState) (s : State) : (s.endArq r a).txdest = s.txdest := rfl
@[simp] theorem endArq_filter (r : Result) (a : ArqState) (s : State) : (s.endArq r a).filter = s.filter := rfl
@[simp] theorem endArq_arqState (r : Result) (a : ArqState) (s : State) : (s.endArq r a).arqState = a := rfl
@[simp] theorem endArq_attempts (r : Result) (a : ArqState) (s : State) : (s.endArq r a).attempts = s.attempts := rfl
@[simp] theorem endArq_timer (r : Result) (a : ArqState) (s : State) : (s.endArq r a).timer = s.timer := rfl
@[simp] theorem endArq_rxf (r : Result) (a : ArqState) (s : State) : (s.endArq r a).rxf = s.rxf := rfl
@[simp] theorem endArq_peer (r : Result) (a : ArqState) (s : State) : (s.endArq r a).peer = s.peer := rfl
@[simp] theorem endArq_result (r : Result) (a : ArqState) (s : State) : (s.endArq r a).result = r := rfl
@[simp] theorem endArq_rxq (r : Result) (a : ArqState) (s : State) : (s.endArq r a).rxq = s.rxq := rfl
@[simp] theorem endArq_txlog (r : Result) (a : ArqState) (s : State) : (s.endArq r a).txlog = s.txlog := rfl
@[simp] theorem endArq_config (r : Result) (a : ArqState) (s : State) : (s.endArq r a).config = s.config := rfl
@[simp] theorem endArq_grant (r : Result) (a : ArqState) (s : State) : (s.endArq r a).grant = s.grant := rfl
@[simp] theorem endArq_commands (r : Result) (a : ArqState) (s : State) : (s.endArq r a).commands = s.commands := rfl
@[simp] theorem endArq_turns (r : Result) (a : ArqState) (s : State) : (s.endArq r a).turns = s.turns := rfl

/-! ## emit -/

@[simp] theorem emit_linkState (d : Datagram) (s : State) : (s.emit d).linkState = s.linkState := rfl
@[simp] theorem emit_seq (d : Datagram) (s : State) : (s.emit d).seq = s.seq := rfl
@[simp] theorem emit_txf (d : Datagram) (s : State) : (s.emit d).txf = s.txf := rfl
@[simp] theorem emit_txdest (d : Datagram) (s : State) : (s.emit d).txdest = s.txdest := rfl
@[simp] theorem emit_filter (d : Datagram) (s : State) : (s.emit d).filter = s.filter := rfl
@[simp] theorem emit_arqState (d : Datagram) (s : State) : (s.emit d).arqState = s.arqState := rfl
@[simp] theorem emit_attempts (d : Datagram) (s : State) : (s.emit d).attempts = s.attempts := rfl
@[simp] theorem emit_timer (d : Datagram) (s : State) : (s.emit d).timer = s.timer := rfl
@[simp] theorem emit_rxf (d : Datagram) (s : State) : (s.emit d).rxf = s.rxf := rfl
@[simp] theorem emit_peer (d : Datagram) (s : State) : (s.emit d).peer = s.peer := rfl
@[simp] theorem emit_result (d : Datagram) (s : State) : (s.emit d).result = s.result := rfl
@[simp] theorem emit_rxq (d : Datagram) (s : State) : (s.emit d).rxq = s.rxq := rfl
@[simp] theorem emit_txlog (d : Datagram) (s : State) : (s.emit d).txlog = s.txlog ++ [d] := rfl
@[simp] theorem emit_config (d : Datagram) (s : State) : (s.emit d).config = s.config := rfl
@[simp] theorem emit_grant (d : Datagram) (s : State) : (s.emit d).grant = s.grant := rfl
@[simp] theorem emit_commands (d : Datagram) (s : State) : (s.emit d).commands = s.commands := rfl
@[simp] theorem emit_turns (d : Datagram) (s : State) : (s.emit d).turns = s.turns := rfl

/-! ## resetCore -/

@[simp] theorem resetCore_linkState (s : State) : (s.resetCore).linkState = .closed := rfl
@[simp] theorem resetCore_seq (s : State) : (s.resetCore).seq = 0 := rfl
@[simp] theorem resetCore_txf (s : State) : (s.resetCore).txf = none := rfl
@[simp] theorem resetCore_txdest (s : State) : (s.resetCore).txdest = ⟨0, 0, 0, 0, 0, 0⟩ := rfl
@[simp] theorem resetCore_filter (s : State) : (s.resetCore).filter = none := rfl
@[simp] theorem resetCore_arqState (s : State) : (s.resetCore).arqState = .idle := rfl
@[simp] theorem resetCore_attempts (s : State) : (s.resetCore).attempts = 0 := rfl
@[simp] theorem resetCore_timer (s : State) : (s.resetCore).timer = 0 := rfl
@[simp] theorem resetCore_rxf (s : State) : (s.resetCore).rxf = none := rfl
@[simp] theorem resetCore_peer (s : State) : (s.resetCore).peer = none := rfl
@[simp] theorem resetCore_result (s : State) : (s.resetCore).result = .none := rfl
@[simp] theorem resetCore_rxq (s : State) : (s.resetCore).rxq = [] := rfl
@[simp] theorem resetCore_txlog (s : State) : (s.resetCore).txlog = s.txlog := rfl
@[simp] theorem resetCore_config (s : State) : (s.resetCore).config = s.config := rfl
@[simp] theorem resetCore_grant (s : State) : (s.resetCore).grant = s.grant := rfl
@[simp] theorem resetCore_commands (s : State) : (s.resetCore).commands = s.commands := rfl
@[simp] theorem resetCore_turns (s : State) : (s.resetCore).turns = s.turns := rfl

/-! ## deliver, tick and retry, on the fields each leaves alone -/

@[simp] theorem deliver_linkState (d : Datagram) (s : State) : (s.deliver d).linkState = s.linkState := by unfold State.deliver; split <;> rfl
@[simp] theorem deliver_seq (d : Datagram) (s : State) : (s.deliver d).seq = s.seq := by unfold State.deliver; split <;> rfl
@[simp] theorem deliver_txf (d : Datagram) (s : State) : (s.deliver d).txf = s.txf := by unfold State.deliver; split <;> rfl
@[simp] theorem deliver_txdest (d : Datagram) (s : State) : (s.deliver d).txdest = s.txdest := by unfold State.deliver; split <;> rfl
@[simp] theorem deliver_filter (d : Datagram) (s : State) : (s.deliver d).filter = s.filter := by unfold State.deliver; split <;> rfl
@[simp] theorem deliver_arqState (d : Datagram) (s : State) : (s.deliver d).arqState = s.arqState := by unfold State.deliver; split <;> rfl
@[simp] theorem deliver_attempts (d : Datagram) (s : State) : (s.deliver d).attempts = s.attempts := by unfold State.deliver; split <;> rfl
@[simp] theorem deliver_timer (d : Datagram) (s : State) : (s.deliver d).timer = s.timer := by unfold State.deliver; split <;> rfl
@[simp] theorem deliver_rxf (d : Datagram) (s : State) : (s.deliver d).rxf = s.rxf := by unfold State.deliver; split <;> rfl
@[simp] theorem deliver_peer (d : Datagram) (s : State) : (s.deliver d).peer = s.peer := by unfold State.deliver; split <;> rfl
@[simp] theorem deliver_result (d : Datagram) (s : State) : (s.deliver d).result = s.result := by unfold State.deliver; split <;> rfl
@[simp] theorem deliver_txlog (d : Datagram) (s : State) : (s.deliver d).txlog = s.txlog := by unfold State.deliver; split <;> rfl
@[simp] theorem deliver_config (d : Datagram) (s : State) : (s.deliver d).config = s.config := by unfold State.deliver; split <;> rfl
@[simp] theorem deliver_grant (d : Datagram) (s : State) : (s.deliver d).grant = s.grant := by unfold State.deliver; split <;> rfl
@[simp] theorem deliver_commands (d : Datagram) (s : State) : (s.deliver d).commands = s.commands := by unfold State.deliver; split <;> rfl
@[simp] theorem deliver_turns (d : Datagram) (s : State) : (s.deliver d).turns = s.turns := by unfold State.deliver; split <;> rfl

@[simp] theorem tick_linkState (s : State) : (s.tick).linkState = s.linkState := by unfold State.tick; split <;> rfl
@[simp] theorem tick_seq (s : State) : (s.tick).seq = s.seq := by unfold State.tick; split <;> rfl
@[simp] theorem tick_txf (s : State) : (s.tick).txf = s.txf := by unfold State.tick; split <;> rfl
@[simp] theorem tick_txdest (s : State) : (s.tick).txdest = s.txdest := by unfold State.tick; split <;> rfl
@[simp] theorem tick_filter (s : State) : (s.tick).filter = s.filter := by unfold State.tick; split <;> rfl
@[simp] theorem tick_arqState (s : State) : (s.tick).arqState = s.arqState := by unfold State.tick; split <;> rfl
@[simp] theorem tick_attempts (s : State) : (s.tick).attempts = s.attempts := by unfold State.tick; split <;> rfl
@[simp] theorem tick_rxf (s : State) : (s.tick).rxf = s.rxf := by unfold State.tick; split <;> rfl
@[simp] theorem tick_peer (s : State) : (s.tick).peer = s.peer := by unfold State.tick; split <;> rfl
@[simp] theorem tick_result (s : State) : (s.tick).result = s.result := by unfold State.tick; split <;> rfl
@[simp] theorem tick_rxq (s : State) : (s.tick).rxq = s.rxq := by unfold State.tick; split <;> rfl
@[simp] theorem tick_txlog (s : State) : (s.tick).txlog = s.txlog := by unfold State.tick; split <;> rfl
@[simp] theorem tick_config (s : State) : (s.tick).config = s.config := by unfold State.tick; split <;> rfl
@[simp] theorem tick_grant (s : State) : (s.tick).grant = s.grant := by unfold State.tick; split <;> rfl
@[simp] theorem tick_commands (s : State) : (s.tick).commands = s.commands := by unfold State.tick; split <;> rfl
@[simp] theorem tick_turns (s : State) : (s.tick).turns = s.turns := by unfold State.tick; split <;> rfl

@[simp] theorem retry_linkState (s : State) : (s.retry).linkState = s.linkState := by unfold State.retry; split <;> rfl
@[simp] theorem retry_seq (s : State) : (s.retry).seq = s.seq := by unfold State.retry; split <;> rfl
@[simp] theorem retry_txf (s : State) : (s.retry).txf = s.txf := by unfold State.retry; split <;> rfl
@[simp] theorem retry_txdest (s : State) : (s.retry).txdest = s.txdest := by unfold State.retry; split <;> rfl
@[simp] theorem retry_filter (s : State) : (s.retry).filter = s.filter := by unfold State.retry; split <;> rfl
@[simp] theorem retry_attempts (s : State) : (s.retry).attempts = s.attempts + 1 := by unfold State.retry; split <;> rfl
@[simp] theorem retry_timer (s : State) : (s.retry).timer = s.timer := by unfold State.retry; split <;> rfl
@[simp] theorem retry_rxf (s : State) : (s.retry).rxf = s.rxf := by unfold State.retry; split <;> rfl
@[simp] theorem retry_peer (s : State) : (s.retry).peer = s.peer := by unfold State.retry; split <;> rfl
@[simp] theorem retry_rxq (s : State) : (s.retry).rxq = s.rxq := by unfold State.retry; split <;> rfl
@[simp] theorem retry_txlog (s : State) : (s.retry).txlog = s.txlog := by unfold State.retry; split <;> rfl
@[simp] theorem retry_config (s : State) : (s.retry).config = s.config := by unfold State.retry; split <;> rfl
@[simp] theorem retry_grant (s : State) : (s.retry).grant = s.grant := by unfold State.retry; split <;> rfl
@[simp] theorem retry_commands (s : State) : (s.retry).commands = s.commands := by unfold State.retry; split <;> rfl
@[simp] theorem retry_turns (s : State) : (s.retry).turns = s.turns := by unfold State.retry; split <;> rfl

end Sys2Proof.Machine
end

