-- ==== Sys2Proof/Laws/Ops.lean ====
section
/-! SUPPORT. What each shared operation can do, said once each: the state tests, the guards of the commands, the
link's delivery, the clock, the retry decision, and the replies of RRECV. -/

namespace Sys2Proof.Machine

/-! ## The state tests -/

theorem busy_iff {s : State} : s.busy = true ↔
    s.arqState = .sending ∨ s.arqState = .awaitingResponse ∨ s.arqState = .listening := by
  unfold State.busy
  cases s.arqState <;> simp

theorem ready_iff {s : State} : s.ready = true ↔
    s.arqState = .idle ∨ s.arqState = .succeeded ∨ s.arqState = .failed := by
  unfold State.ready State.busy
  cases s.arqState <;> simp

theorem ready_eq_false {s : State} : s.ready = false ↔ s.busy = true := by simp [State.ready]

theorem polling_iff {s : State} : s.polling = true ↔
    (s.arqState = .awaitingResponse ∨ s.arqState = .listening) ∧ s.timer ≠ 0 := by
  unfold State.polling State.waiting
  cases s.arqState <;> simp

theorem hasRoom_iff {s : State} : s.hasRoom = true ↔
    ∀ n, s.config.rxqDepth = some n → s.rxq.length < n := by
  unfold State.hasRoom
  cases s.config.rxqDepth <;> simp

/-! ## The guards of the commands -/

theorem whenReady_ready {s : State} (h : s.ready = true) (effect : State → State) :
    whenReady s effect = .next (effect s) := if_pos h

theorem whenReady_busy {s : State} (h : s.busy = true) (effect : State → State) :
    whenReady s effect = .next s := by simp [whenReady, State.ready, h]

theorem needLink_opened {s : State} (h : s.linkState = .opened) (effect : State → State) :
    needLink s effect = effect s := if_pos h

theorem needLink_other {s : State} (h : s.linkState ≠ .opened) (effect : State → State) :
    needLink s effect = s.finish .transportError := if_neg h

theorem needFrame_some {s : State} {f : Frame} (h : s.txf = some f) (effect : Frame → State → State) :
    needFrame s effect = effect f s := by simp [needFrame, h]

theorem needFrame_none {s : State} (h : s.txf = none) (effect : Frame → State → State) :
    needFrame s effect = s.finish .noTxFrame := by simp [needFrame, h]

/-! ## The link and the clock -/

/-- A delivery appends the datagram, to an open handle with room, or loses it. -/
theorem deliver_cases (d : Datagram) (s : State) :
    (s.linkState = .opened ∧ s.hasRoom = true ∧ s.deliver d = { s with rxq := s.rxq ++ [d] }) ∨
    (¬(s.linkState = .opened ∧ s.hasRoom = true) ∧ s.deliver d = s) := by
  by_cases h : s.linkState = .opened ∧ s.hasRoom = true
  · exact .inl ⟨h.1, h.2, if_pos h⟩
  · exact .inr ⟨h, if_neg h⟩

/-- A tick takes one millisecond from a running deadline, or has no effect. -/
theorem tick_cases (s : State) :
    (s.polling = true ∧ s.tick = { s with timer := s.timer - 1 }) ∨ (s.polling = false ∧ s.tick = s) := by
  by_cases h : s.polling = true
  · exact .inl ⟨h, if_pos h⟩
  · exact .inr ⟨by simpa using h, if_neg h⟩

theorem timer_pred {t : BitVec 11} (h : t ≠ 0) : (t - 1).toNat + 1 = t.toNat := by
  have : t.toNat ≠ 0 := fun e => h (BitVec.eq_of_toNat_eq (by simpa using e))
  bv_omega

theorem attempts_succ {a : BitVec 3} (h : a.toNat < maxAttempts) : (a + 1).toNat = a.toNat + 1 := by
  unfold maxAttempts at h
  bv_omega

/-- The retry decision tries again while an attempt is left, or fails. -/
theorem retry_cases (s : State) :
    (s.attempts.toNat + 1 < maxAttempts ∧ s.retry = { s with attempts := s.attempts + 1, arqState := .sending }) ∨
    (¬(s.attempts.toNat + 1 < maxAttempts) ∧
      s.retry = { s with attempts := s.attempts + 1, arqState := .failed, result := .failedNoAck }) := by
  by_cases h : s.attempts.toNat + 1 < maxAttempts
  · exact .inl ⟨h, if_pos h⟩
  · exact .inr ⟨h, if_neg h⟩

theorem retry_eq_afterAttempt (s : State) : s.retry = afterAttempt s := rfl

/-! ## The replies of RRECV -/

/-- The reply to an accepted frame is the ACK of R172. -/
theorem reply_ack (s : State) (q : BitVec 5) (a : Addr) :
    reply (q.setWidth 8) tAck a s = s.emit (wrap s.config (ackFrame q) a) := by
  have : build (q.setWidth 8) (tAck.setWidth 8) [] 0 = ackFrame q := by revert q; decide
  rw [reply, this]

/-- The reply to a mismatch is the NACK of R173, with the low 5 bits of the raw sequence byte. -/
theorem reply_nack (s : State) (q : Byte) (a : Addr) :
    reply q tNack a s = s.emit (wrap s.config (nackFrame (q.setWidth 5)) a) := by
  have : build q (tNack.setWidth 8) [] 0 = nackFrame (q.setWidth 5) := by
    simp [build, nackFrame, checksumOf, tNack, foldXor]
  rw [reply, this]

theorem soundFrame_ackFrame (q : BitVec 5) : soundFrame (ackFrame q) = true := by revert q; decide

theorem soundFrame_nackFrame (q : BitVec 5) : soundFrame (nackFrame q) = true := by revert q; decide

/-- What `build` makes of a payload of at most 127 bytes is sound (R117). -/
theorem soundFrame_build {seq typ len : Byte} {payload : List Byte} (h1 : len.toNat ≤ maxPayload)
    (h2 : payload.length = len.toNat) : soundFrame (build seq typ payload len) = true := by
  simp [soundFrame, build_wf h1 h2, validate_build]

/-- A frame the parser accepts is sound (R137). -/
theorem soundFrame_accept {c : Config} {d : Datagram} {filter : Filter} {f : Frame} {a : Addr}
    (h : unwrap c d filter = .accept f a) : soundFrame f = true := by
  obtain ⟨-, h1, rfl, -⟩ := unwrap_accept h
  simp [soundFrame, frameOf_intact h1]

end Sys2Proof.Machine
end

