-- ==== Sys2Proof/Laws/Step.lean ====
section
/-! SUPPORT. Everything a command can do to a ready core, everything a datagram can do to a polling one, and everything
one step can do: each said once, as a relation that the meanings and `step` are shown to stay within. -/

namespace Sys2Proof.Machine

/-! ## Commands -/

/-- What a command does to a ready core, case by case (R113 to R115, R130 to R132, R138, R139, R151, R170, R190,
R191, R223). -/
inductive Effect (s : State) : Instr → State → Prop where
  | openGranted : s.linkState = .closed → s.grant = true →
      Effect s .openHandle { s with linkState := .opened, rxq := [], result := .ok }
  | openRefused : s.linkState = .closed → s.grant = false →
      Effect s .openHandle { s with linkState := .failed, rxq := [], result := .transportError }
  | openAgain : s.linkState = .opened → Effect s .openHandle { s with result := .ok }
  | openFailed : s.linkState = .failed → Effect s .openHandle { s with result := .transportError }
  | closeOpen : s.linkState = .opened →
      Effect s .closeHandle { s with linkState := .closed, rxq := [], result := .ok }
  | closeClosed : s.linkState = .closed → Effect s .closeHandle { s with result := .ok }
  | closeFailed : s.linkState = .failed → Effect s .closeHandle { s with result := .transportError }
  | buildLong (seq typ len payload) : len.toNat > maxPayload →
      Effect s (.build seq typ len payload) { s with result := .lengthError }
  | buildOk (seq typ len payload) : len.toNat ≤ maxPayload →
      Effect s (.build seq typ len payload) { s with txf := some (build seq typ payload len), result := .ok }
  | validate (f) : Effect s (.validate f) { s with result := .valid (validate f) }
  | lsendNoLink (dest) : s.linkState ≠ .opened → Effect s (.lsend dest) { s with result := .transportError }
  | lsendNoFrame (dest) : s.linkState = .opened → s.txf = none →
      Effect s (.lsend dest) { s with result := .noTxFrame }
  | lsendOk (dest f) : s.linkState = .opened → s.txf = some f →
      Effect s (.lsend dest) { s with txlog := s.txlog ++ [wrap s.config f dest], result := .ok }
  | lrecvNoLink (filter) : s.linkState ≠ .opened → Effect s (.lrecv filter) { s with result := .transportError }
  | lrecvEmpty (filter) : s.linkState = .opened → s.rxq = [] → Effect s (.lrecv filter) { s with result := .noFrame }
  | lrecvReject (filter d rest) : s.linkState = .opened → s.rxq = d :: rest → unwrap s.config d filter = .reject →
      Effect s (.lrecv filter) { s with rxq := rest, result := .reject }
  | lrecvMismatch (filter d rest q a) : s.linkState = .opened → s.rxq = d :: rest →
      unwrap s.config d filter = .mismatch q a →
      Effect s (.lrecv filter) { s with rxq := rest, result := .checksumMismatch q a }
  | lrecvFrame (filter d rest f a) : s.linkState = .opened → s.rxq = d :: rest →
      unwrap s.config d filter = .accept f a →
      Effect s (.lrecv filter) { s with rxq := rest, rxf := some f, peer := some a, result := .frame }
  | rsendNoLink (dest filter) : s.linkState ≠ .opened →
      Effect s (.rsend dest filter) { s with result := .transportError }
  | rsendNoFrame (dest filter) : s.linkState = .opened → s.txf = none →
      Effect s (.rsend dest filter) { s with result := .noTxFrame }
  | rsendOk (dest filter f) : s.linkState = .opened → s.txf = some f →
      Effect s (.rsend dest filter)
        { s with txdest := dest, filter := filter, attempts := 0, result := .none, arqState := .sending }
  | rrecvNoLink (filter) : s.linkState ≠ .opened → Effect s (.rrecv filter) { s with result := .transportError }
  | rrecvOk (filter) : s.linkState = .opened →
      Effect s (.rrecv filter)
        { s with filter := filter, timer := BitVec.ofNat 11 timeoutMs, result := .none, arqState := .listening }
  | seqrd : Effect s .seqrd { s with result := .seqValue s.seq }
  | seqadv : Effect s .seqadv { s with seq := s.seq + 1, result := .ok }

/-- A command presented to a ready core answers a next state, by one of the cases of `Effect`. -/
theorem exec_effect {i : Instr} (hi : i.asFrame = none) {s : State} (hr : s.ready = true) :
    ∃ t, exec i s = .next t ∧ Effect s i t := by
  cases i <;> simp only [Instr.asFrame, reduceCtorEq] at hi
  case openHandle =>
    simp only [exec, execOpen, whenReady_ready hr]
    refine ⟨_, rfl, ?_⟩
    cases hl : s.linkState with
    | closed =>
      by_cases hg : s.grant = true
      · simp only [if_pos hg]; exact .openGranted hl hg
      · simp only [if_neg hg]; exact .openRefused hl (by simpa using hg)
    | opened => exact .openAgain hl
    | failed => exact .openFailed hl
  case closeHandle =>
    simp only [exec, execClose, whenReady_ready hr]
    refine ⟨_, rfl, ?_⟩
    cases hl : s.linkState with
    | opened => exact .closeOpen hl
    | closed => exact .closeClosed hl
    | failed => exact .closeFailed hl
  case build seq typ len payload =>
    simp only [exec, execBuild, whenReady_ready hr]
    refine ⟨_, rfl, ?_⟩
    by_cases h : len.toNat > maxPayload
    · rw [if_pos h]; exact .buildLong _ _ _ _ h
    · rw [if_neg h]; exact .buildOk _ _ _ _ (by omega)
  case validate f => exact ⟨_, by simp only [exec, execValidate, whenReady_ready hr]; rfl, .validate f⟩
  case lsend dest =>
    simp only [exec, execLsend, whenReady_ready hr]
    refine ⟨_, rfl, ?_⟩
    by_cases hl : s.linkState = .opened
    · rw [needLink_opened hl]
      cases hf : s.txf with
      | none => rw [needFrame_none hf]; exact .lsendNoFrame _ hl hf
      | some f => rw [needFrame_some hf]; exact .lsendOk _ f hl hf
    · rw [needLink_other hl]; exact .lsendNoLink _ hl
  case lrecv filter =>
    simp only [exec, execLrecv, whenReady_ready hr]
    refine ⟨_, rfl, ?_⟩
    by_cases hl : s.linkState = .opened
    · rw [needLink_opened hl]
      cases hq : s.rxq with
      | nil => exact .lrecvEmpty _ hl hq
      | cons d rest =>
        simp only
        cases hu : unwrap s.config d filter with
        | reject => exact .lrecvReject _ d rest hl hq hu
        | mismatch q a => exact .lrecvMismatch _ d rest q a hl hq hu
        | accept f a => exact .lrecvFrame _ d rest f a hl hq hu
    · rw [needLink_other hl]; exact .lrecvNoLink _ hl
  case rsend dest filter =>
    simp only [exec, execRsend, whenReady_ready hr]
    refine ⟨_, rfl, ?_⟩
    by_cases hl : s.linkState = .opened
    · rw [needLink_opened hl]
      cases hf : s.txf with
      | none => rw [needFrame_none hf]; exact .rsendNoFrame _ _ hl hf
      | some f => rw [needFrame_some hf]; exact .rsendOk _ _ f hl hf
    · rw [needLink_other hl]; exact .rsendNoLink _ _ hl
  case rrecv filter =>
    simp only [exec, execRrecv, whenReady_ready hr]
    refine ⟨_, rfl, ?_⟩
    by_cases hl : s.linkState = .opened
    · rw [needLink_opened hl]; exact .rrecvOk _ hl
    · rw [needLink_other hl]; exact .rrecvNoLink _ hl
  case seqrd => exact ⟨_, by simp only [exec, execSeqrd, whenReady_ready hr]; rfl, .seqrd⟩
  case seqadv => exact ⟨_, by simp only [exec, execSeqadv, whenReady_ready hr]; rfl, .seqadv⟩

/-- What a command answers, when it answers: nothing of a busy core, a case of `Effect` of a ready one. -/
theorem exec_command_cases {i : Instr} (hi : i.asFrame = none) {s t : State} (h : exec i s = .next t) :
    (s.busy = true ∧ t = s) ∨ (s.ready = true ∧ Effect s i t) := by
  by_cases hr : s.ready = true
  · obtain ⟨t', h1, h2⟩ := exec_effect hi hr
    rw [h1] at h
    cases h
    exact .inr ⟨hr, h2⟩
  · have hb := ready_eq_false.1 (by simpa using hr : s.ready = false)
    cases i <;> simp only [Instr.asFrame, reduceCtorEq] at hi <;>
      simp only [exec, execOpen, execClose, execBuild, execValidate, execLsend, execLrecv, execRsend, execRrecv,
        execSeqrd, execSeqadv, whenReady_busy hb, Host.Outcome.next.injEq] at h <;>
      exact .inl ⟨hb, h.symm⟩

/-! ## Frames -/

/-- A frame's meaning is the presentation of its datagram. -/
theorem exec_frame {i : Instr} {t : BitVec 4} {e : Envelope} {b : Body} (h : i.asFrame = some (t, e, b))
    (s : State) : exec i s = presentDatagram (datagramBytes t e b) s := by
  rw [asFrame_some h]
  rcases tag_cases t with h | h | h | h | h | h | h | h | h | h | h | h | h | h | h | h <;> subst h <;> rfl

/-- A frame presented to a polling core: the poll on its datagram, and the verdict there. -/
theorem exec_frame_polling {i : Instr} {t : BitVec 4} {e : Envelope} {b : Body} {s : State}
    (h : i.asFrame = some (t, e, b)) (hp : s.polling = true) (hb : b.payload.length = b.length.toNat) :
    exec i s = pollDatagram (datagramBytes t e b) s ∧ unwrap s.config (datagramBytes t e b) s.filter =
      if e.ethertype = s.config.ethertype ∧ filterPasses s.filter e.dest = true ∧ b.marker = s.config.startMarker then
        if validate (b.frame t) = true then .accept (b.frame t) e.src
        else .mismatch (b.sequence.setWidth 8) e.src
      else .reject := by
  constructor
  · rw [exec_frame h, presentDatagram, if_pos hp]
  · have := unwrap_datagramBytes (b := b) (by simp [Body.wf, hb]) s.config t e [] s.filter
    rwa [List.append_nil] at this

/-- The poll step is the poll on the datagram popped, whether or not it spells a frame of the table. -/
theorem pollTurn_cons {s : State} (hp : s.polling = true) {d : Datagram} {rest : List Datagram}
    (h : s.rxq = d :: rest) : pollTurn s = pollDatagram d { s with rxq := rest } := by
  unfold pollTurn
  rw [h]
  simp only
  split
  · rename_i i r hd
    obtain ⟨t, e, b, rfl, hb, rfl⟩ := decodeDatagram_ok hd
    rw [exec_frame (frameInstr_asFrame t e b)]
    have : State.polling { s with rxq := rest } = true := hp
    rw [presentDatagram, this, if_pos rfl]
    have h0 := unwrap_datagramBytes hb s.config t e [] s.filter
    have h1 := unwrap_datagramBytes hb s.config t e r s.filter
    rw [List.append_nil] at h0
    simp only [pollDatagram, sPoll, rPoll, h0, h1]
  · rfl

/-- The poll of `AwaitingResponse`, with its frame in `TXF` (R153). -/
theorem pollDatagram_awaiting {s : State} {f : Frame} (ha : s.arqState = .awaitingResponse) (hx : s.txf = some f)
    (d : Datagram) : pollDatagram d s = .next (takeResponse (unwrap s.config d s.filter) f s) := by
  simp [pollDatagram, ha, sPoll, hx]

/-- The poll of `Listening` (R172). -/
theorem pollDatagram_listening {s : State} (ha : s.arqState = .listening) (d : Datagram) :
    pollDatagram d s = .next (takeRequest (unwrap s.config d s.filter) s) := by
  simp [pollDatagram, ha, rPoll]

/-! ## Steps -/

/-- A polling core's turn is its poll step (R234 (a)). -/
theorem coreTurn_polling {s : State} (hp : s.polling = true) : coreTurn s = pollTurn s := by
  obtain ⟨h1, h2⟩ := polling_iff.1 hp
  rcases h1 with h1 | h1 <;> simp only [coreTurn, h1, if_neg h2]

/-- A ready core has no step of its own (R29). -/
theorem coreTurn_ready {s : State} (hr : s.ready = true) : coreTurn s = .next s := by
  rcases ready_iff.1 hr with h | h | h <;> simp [coreTurn, h]

/-- A scheduled turn is the one taken. -/
theorem step_cons {s : State} {t : Turn} {later : List Turn} (h : s.turns = t :: later) :
    step s = turnStep t { s with turns := later } := by
  simp [step, nextTurn, h]

/-- The core's turn while it polls, with a datagram waiting. -/
theorem step_poll {s : State} {later : List Turn} (ht : s.turns = .core :: later) (hp : s.polling = true)
    {d : Datagram} {rest : List Datagram} (h : s.rxq = d :: rest) :
    step s = pollDatagram d { s with rxq := rest, turns := later } := by
  rw [step_cons ht, turnStep, coreTurn_polling (s := { s with turns := later }) hp,
    pollTurn_cons (s := { s with turns := later }) hp h]

/-- What one turn does, case by case; `s` is the state with the turn already taken from the schedule. -/
inductive Move (s : State) : Turn → State → Prop where
  | coreReady : s.ready = true → Move s .core s
  | transmit (f) : s.arqState = .sending → s.txf = some f →
      Move s .core { s with
        txlog := s.txlog ++ [wrap s.config f s.txdest], timer := BitVec.ofNat 11 timeoutMs,
        arqState := .awaitingResponse }
  | pollEmpty : s.polling = true → s.rxq = [] → Move s .core s
  | sAck (f d rest r a) : s.arqState = .awaitingResponse → s.timer ≠ 0 → s.txf = some f → s.rxq = d :: rest →
      unwrap s.config d s.filter = .accept r a → r.sequence = f.sequence → r.type = tAck →
      Move s .core { s with rxq := rest, result := .succeeded, arqState := .succeeded }
  | sNackAgain (f d rest r a) : s.arqState = .awaitingResponse → s.timer ≠ 0 → s.txf = some f → s.rxq = d :: rest →
      unwrap s.config d s.filter = .accept r a → r.sequence = f.sequence → r.type = tNack →
      s.attempts.toNat + 1 < maxAttempts →
      Move s .core { s with rxq := rest, attempts := s.attempts + 1, arqState := .sending }
  | sNackFails (f d rest r a) : s.arqState = .awaitingResponse → s.timer ≠ 0 → s.txf = some f → s.rxq = d :: rest →
      unwrap s.config d s.filter = .accept r a → r.sequence = f.sequence → r.type = tNack →
      ¬(s.attempts.toNat + 1 < maxAttempts) →
      Move s .core { s with
        rxq := rest, attempts := s.attempts + 1, arqState := .failed, result := .failedNoAck }
  | sOther (f d rest) : s.arqState = .awaitingResponse → s.timer ≠ 0 → s.txf = some f → s.rxq = d :: rest →
      Move s .core { s with rxq := rest }
  | sTimeoutAgain : s.arqState = .awaitingResponse → s.timer = 0 → s.attempts.toNat + 1 < maxAttempts →
      Move s .core { s with attempts := s.attempts + 1, arqState := .sending }
  | sTimeoutFails : s.arqState = .awaitingResponse → s.timer = 0 → ¬(s.attempts.toNat + 1 < maxAttempts) →
      Move s .core { s with attempts := s.attempts + 1, arqState := .failed, result := .failedNoAck }
  | rAccept (d rest f a) : s.arqState = .listening → s.timer ≠ 0 → s.rxq = d :: rest →
      unwrap s.config d s.filter = .accept f a →
      Move s .core { s with
        rxq := rest, txlog := s.txlog ++ [wrap s.config (ackFrame f.sequence) a],
        rxf := some f, peer := some a, result := .received, arqState := .succeeded }
  | rMismatch (d rest q a) : s.arqState = .listening → s.timer ≠ 0 → s.rxq = d :: rest →
      unwrap s.config d s.filter = .mismatch q a →
      Move s .core { s with
        rxq := rest, txlog := s.txlog ++ [wrap s.config (nackFrame (q.setWidth 5)) a] }
  | rReject (d rest) : s.arqState = .listening → s.timer ≠ 0 → s.rxq = d :: rest →
      unwrap s.config d s.filter = .reject → Move s .core { s with rxq := rest }
  | rTimeout : s.arqState = .listening → s.timer = 0 →
      Move s .core { s with result := .failedTimeout, arqState := .failed }
  | hostBusy : s.busy = true → Move s .host s
  | hostEmpty : s.ready = true → s.commands = [] → Move s .host s
  | hostUnspelled (bytes later) : s.ready = true → s.commands = bytes :: later → commandOf bytes = none →
      Move s .host { s with commands := later }
  | hostCommand (bytes later i t) : s.ready = true → s.commands = bytes :: later →
      decodeCommand bytes = .ok (i, []) → i.asFrame = none → i.wf = true →
      Effect { s with commands := later } i t → Move s .host t
  | linkAppend (d) : s.linkState = .opened → s.hasRoom = true → Move s (.link d) { s with rxq := s.rxq ++ [d] }
  | linkLost (d) : ¬(s.linkState = .opened ∧ s.hasRoom = true) → Move s (.link d) s
  | tickDown : s.polling = true → Move s .tick { s with timer := s.timer - 1 }
  | tickIdle : s.polling = false → Move s .tick s
  | reset : Move s .reset s.resetCore
  | grant (b) : Move s (.grant b) { s with grant := b }

/-- A turn that finds its frame in `TXF` where it needs one answers a next state, by one of the cases of `Move`. -/
theorem turnStep_move (t : Turn) (s : State)
    (hf : t = .core → s.arqState = .sending ∨ (s.arqState = .awaitingResponse ∧ s.timer ≠ 0 ∧ s.rxq ≠ []) →
      s.txf ≠ none) : ∃ s', turnStep t s = .next s' ∧ Move s t s' := by
  cases t with
  | core =>
    replace hf := hf rfl
    show ∃ s', coreTurn s = .next s' ∧ Move s .core s'
    by_cases hr : s.ready = true
    · exact ⟨s, coreTurn_ready hr, .coreReady hr⟩
    by_cases hp : s.polling = true
    · rw [coreTurn_polling hp]
      have h0 := (polling_iff.1 hp).2
      obtain hq | ⟨d, rest, hq⟩ : s.rxq = [] ∨ ∃ d rest, s.rxq = d :: rest := by cases s.rxq <;> simp
      · exact ⟨s, by simp [pollTurn, hq], .pollEmpty hp hq⟩
      rw [pollTurn_cons hp hq]
      rcases (polling_iff.1 hp).1 with ha | ha
      · obtain hx | ⟨f, hx⟩ : s.txf = none ∨ ∃ f, s.txf = some f := by cases s.txf <;> simp
        · exact absurd hx (hf (.inr ⟨ha, h0, by simp [hq]⟩))
        refine ⟨_, pollDatagram_awaiting (s := { s with rxq := rest }) ha hx d, ?_⟩
        have other := Move.sOther f d rest ha h0 hx hq
        cases hu : unwrap s.config d s.filter with
        | reject => exact other
        | mismatch q a => exact other
        | accept r a =>
          simp only [takeResponse]
          by_cases h1 : r.sequence = f.sequence ∧ r.type = tAck
          · rw [if_pos h1]; exact .sAck f d rest r a ha h0 hx hq hu h1.1 h1.2
          rw [if_neg h1]
          by_cases h2 : r.sequence = f.sequence ∧ r.type = tNack
          · rw [if_pos h2]
            obtain ⟨h, e⟩ | ⟨h, e⟩ := retry_cases { s with rxq := rest } <;> rw [e]
            · exact .sNackAgain f d rest r a ha h0 hx hq hu h2.1 h2.2 h
            · exact .sNackFails f d rest r a ha h0 hx hq hu h2.1 h2.2 h
          · rw [if_neg h2]; exact other
      · refine ⟨_, pollDatagram_listening (s := { s with rxq := rest }) ha d, ?_⟩
        cases hu : unwrap s.config d s.filter with
        | reject => exact .rReject d rest ha h0 hq hu
        | mismatch q a => simp only [takeRequest, reply_nack]; exact .rMismatch d rest q a ha h0 hq hu
        | accept f a => simp only [takeRequest, reply_ack]; exact .rAccept d rest f a ha h0 hq hu
    rw [polling_iff, not_and, not_not] at hp
    rcases busy_iff.1 (ready_eq_false.1 (by simpa using hr)) with ha | ha | ha
    · obtain hx | ⟨f, hx⟩ : s.txf = none ∨ ∃ f, s.txf = some f := by cases s.txf <;> simp
      · exact absurd hx (hf (.inl ha))
      · exact ⟨_, by simp [coreTurn, ha, sTransmit, hx, State.emit], .transmit f ha hx⟩
    · have h0 := hp (.inl ha)
      refine ⟨s.retry, by simp [coreTurn, ha, h0, sTimeout], ?_⟩
      obtain ⟨h, e⟩ | ⟨h, e⟩ := retry_cases s <;> rw [e]
      · exact .sTimeoutAgain ha h0 h
      · exact .sTimeoutFails ha h0 h
    · have h0 := hp (.inr ha)
      exact ⟨_, by simp [coreTurn, ha, h0, rTimeout, State.endArq], .rTimeout ha h0⟩
  | host =>
    by_cases hr : s.ready = true
    · cases hc : s.commands with
      | nil => exact ⟨s, by simp [turnStep, hostTurn, hr, hc], .hostEmpty hr hc⟩
      | cons bytes later =>
        cases ho : commandOf bytes with
        | none => exact ⟨_, by simp [turnStep, hostTurn, hr, hc, ho], .hostUnspelled bytes later hr hc ho⟩
        | some i =>
          have hd : decodeCommand bytes = .ok (i, []) := by
            unfold commandOf at ho
            split at ho <;> simp_all
          obtain ⟨hw, hi, -⟩ := decodeCommand_prefix hd
          obtain ⟨t, h1, h2⟩ := exec_effect hi (s := { s with commands := later }) hr
          exact ⟨t, by simp [turnStep, hostTurn, hr, hc, ho, h1], .hostCommand bytes later i t hr hc hd hi hw h2⟩
    · exact ⟨s, by simp [turnStep, hostTurn, hr], .hostBusy (ready_eq_false.1 (by simpa using hr))⟩
  | link d =>
    refine ⟨_, rfl, ?_⟩
    obtain ⟨h1, h2, e⟩ | ⟨h, e⟩ := deliver_cases d s <;> rw [e]
    · exact .linkAppend d h1 h2
    · exact .linkLost d h
  | tick =>
    refine ⟨_, rfl, ?_⟩
    obtain ⟨h, e⟩ | ⟨h, e⟩ := tick_cases s <;> rw [e]
    · exact .tickDown h
    · exact .tickIdle h
  | reset => exact ⟨_, rfl, .reset⟩
  | grant b => exact ⟨_, rfl, .grant b⟩

/-- Every answer of a turn is a move. -/
theorem move_of_turnStep {t : Turn} {s s' : State} (h : turnStep t s = .next s') : Move s t s' := by
  by_cases hf : t = .core → s.arqState = .sending ∨ (s.arqState = .awaitingResponse ∧ s.timer ≠ 0 ∧ s.rxq ≠ []) →
      s.txf ≠ none
  · obtain ⟨s'', h1, h2⟩ := turnStep_move t s hf
    rw [h1] at h
    cases h
    exact h2
  · simp only [Classical.not_imp, not_not] at hf
    obtain ⟨rfl, ha | ⟨ha, h0, hq⟩, hx⟩ := hf
    · simp [turnStep, coreTurn, ha, sTransmit, hx] at h
    · obtain ⟨d, rest, hq⟩ := List.exists_cons_of_ne_nil hq
      have hp : s.polling = true := polling_iff.2 ⟨.inl ha, h0⟩
      rw [turnStep, coreTurn_polling hp, pollTurn_cons hp hq] at h
      simp [pollDatagram, ha, sPoll, hx] at h

/-- Every step is a move of the agent whose turn it is; the schedule loses that turn, where it held one. -/
theorem move_of_step {s t : State} (h : step s = .next t) :
    ∃ later, Move { s with turns := later } (turnOf s) t ∧ (s.turns = turnOf s :: later ∨ s.turns = []) := by
  refine ⟨(nextTurn s).2.turns, ?_, ?_⟩
  · have := move_of_turnStep h
    have e : (nextTurn s).2 = { s with turns := (nextTurn s).2.turns } := by
      unfold nextTurn; cases s.turns <;> rfl
    rw [e] at this
    exact this
  · unfold turnOf nextTurn; cases s.turns <;> simp

end Sys2Proof.Machine
end

