-- ==== Sys2Proof/Laws/Exchange.lean ====
section
/-! SUPPORT. What the faithful link of R63 does: everything a core emits is brought to the other unchanged, once, in
emission order, before its next tick, and nothing else ever is. -/

namespace Sys2Proof.Machine

@[simp] theorem Side.other_other (side : Side) : side.other.other = side := by cases side <;> rfl

/-! ## The pair's fields -/

@[simp] theorem core_setCore_self (side s) (x : Exchange) : (x.setCore side s).core side = s := by cases side <;> rfl
@[simp] theorem core_setCore_other (side s) (x : Exchange) :
    (x.setCore side.other s).core side = x.core side := by cases side <;> rfl
@[simp] theorem core_other_setCore (side s) (x : Exchange) :
    (x.setCore side s).core side.other = x.core side.other := by cases side <;> rfl
@[simp] theorem core_setWire (side i w) (x : Exchange) : (x.setWire i w).core side = x.core side := by
  cases side <;> cases i <;> rfl
@[simp] theorem wire_setCore (side i s) (x : Exchange) : (x.setCore i s).wire side = x.wire side := by
  cases side <;> cases i <;> rfl
@[simp] theorem wire_setWire_self (side w) (x : Exchange) : (x.setWire side w).wire side = w := by cases side <;> rfl
@[simp] theorem wire_other_setWire (side w) (x : Exchange) :
    (x.setWire side w).wire side.other = x.wire side.other := by cases side <;> rfl

theorem faithful_iff (side : Side) (x : Exchange) :
    x.faithful ↔ (x.wire side).faithful ∧ (x.wire side.other).faithful := by
  cases side
  · exact Iff.rfl
  · exact And.comm

/-! ## What the link offers -/

@[simp] theorem offer_core_self (side ds w) (x : Exchange) : (x.offer side ds w).core side = x.core side := by
  simp [Exchange.offer]
@[simp] theorem offer_core_other (side ds w) (x : Exchange) :
    (x.offer side ds w).core side.other = deliverAll ds (x.core side.other) := by simp [Exchange.offer]
@[simp] theorem offer_wire_self (side ds w) (x : Exchange) :
    (x.offer side ds w).wire side = { w with brought := w.brought ++ ds } := by simp [Exchange.offer]
@[simp] theorem offer_wire_other (side ds w) (x : Exchange) :
    (x.offer side ds w).wire side.other = x.wire side.other := by simp [Exchange.offer]

/-- What is put into a queue changes the queue only. -/
theorem deliver_queue (d : Datagram) (s : State) : ∃ q, s.deliver d = { s with rxq := q } := by
  unfold State.deliver
  split
  · exact ⟨_, rfl⟩
  · exact ⟨s.rxq, rfl⟩

theorem deliverAll_queue (ds : List Datagram) (s : State) : ∃ q, deliverAll ds s = { s with rxq := q } := by
  induction ds generalizing s with
  | nil => exact ⟨s.rxq, rfl⟩
  | cons d ds ih =>
    obtain ⟨q, e⟩ := deliver_queue d s
    obtain ⟨q', e'⟩ := ih (s.deliver d)
    exact ⟨q', by rw [deliverAll, e', e]⟩

@[simp] theorem deliverAll_txlog (ds : List Datagram) (s : State) : (deliverAll ds s).txlog = s.txlog := by
  obtain ⟨q, e⟩ := deliverAll_queue ds s
  rw [e]

/-! ## What a core emits -/

/-- A turn adds to the end of the transmit history (R39, R261). -/
theorem turnStep_txlog {t : Turn} {s s' : State} (h : turnStep t s = .next s') :
    s'.txlog = s.txlog ++ emitted s s' := by
  have : ∃ sent, s'.txlog = s.txlog ++ sent := by
    cases move_of_turnStep h with
    | hostCommand bytes later i t hr hcm hd hi hw he =>
      cases he
      case lsendOk => exact ⟨_, rfl⟩
      all_goals exact ⟨[], by simp⟩
    | transmit => exact ⟨_, rfl⟩
    | rAccept => exact ⟨_, rfl⟩
    | rMismatch => exact ⟨_, rfl⟩
    | _ => exact ⟨[], by simp [State.resetCore]⟩
  obtain ⟨sent, e⟩ := this
  rw [emitted, e, List.drop_left]

/-- No turn but the link's appends to a core's queue: what any other leaves of it is its newest end. -/
theorem turnStep_rxq_suffix {t : Turn} {s s' : State} (h : turnStep t s = .next s') (ht : ∀ d, t ≠ .link d) :
    s'.rxq <:+ s.rxq := by
  cases move_of_turnStep h with
  | hostCommand bytes later i t hr hcm hd hi hw he =>
    cases he
    case openGranted | openRefused | closeOpen => exact List.nil_suffix
    case lrecvReject hq _ => rw [show s.rxq = _ from hq]; exact List.suffix_cons _ _
    case lrecvMismatch hq _ => rw [show s.rxq = _ from hq]; exact List.suffix_cons _ _
    case lrecvFrame hq _ => rw [show s.rxq = _ from hq]; exact List.suffix_cons _ _
    all_goals exact List.suffix_refl _
  | sAck f d rest r a ha h0 hx hq => rw [hq]; exact List.suffix_cons _ _
  | sNackAgain f d rest r a ha h0 hx hq => rw [hq]; exact List.suffix_cons _ _
  | sNackFails f d rest r a ha h0 hx hq => rw [hq]; exact List.suffix_cons _ _
  | sOther f d rest ha h0 hx hq => rw [hq]; exact List.suffix_cons _ _
  | rAccept d rest f a ha h0 hq => rw [hq]; exact List.suffix_cons _ _
  | rMismatch d rest q a ha h0 hq => rw [hq]; exact List.suffix_cons _ _
  | rReject d rest ha h0 hq => rw [hq]; exact List.suffix_cons _ _
  | reset => exact List.nil_suffix
  | linkAppend d => exact absurd rfl (ht d)
  | _ => exact List.suffix_refl _

/-- On a direction without exceptions everything emitted waits, unchanged, once, in order. -/
theorem sendAll_faithful {w : Wire} (h : w.faithful) (ds : List Datagram) :
    Wire.sendAll ds w = { w with waiting := w.waiting ++ ds } := by
  induction ds generalizing w with
  | nil => simp [Wire.sendAll]
  | cons d ds ih =>
    have e : w.send d = { w with waiting := w.waiting ++ [d] } := by simp [Wire.send, h.1, LinkAct.on]
    rw [Wire.sendAll, e, ih (w := { w with waiting := w.waiting ++ [d] }) h]
    simp

/-- What a core's own turn does to the pair: the core moves as it does alone, its emissions go onto its direction of the
link, and the other core and the other direction keep everything. -/
theorem moveBy_next {side : Side} {t : Turn} {x y : Exchange} (h : x.moveBy side t = .next y) :
    ∃ s, turnStep t (x.core side) = .next s ∧
      y = (x.setCore side s).setWire side (Wire.sendAll (emitted (x.core side) s) (x.wire side)) := by
  unfold Exchange.moveBy at h
  split at h
  · rename_i s hs
    cases h
    exact ⟨s, hs, rfl⟩
  · cases h
  · cases h

/-! ## The faithful link -/

/-- The direction from `side` has brought and still carries exactly what that core emitted after `base`, in emission
order. -/
def Exchange.carries (side : Side) (base : List Datagram) (x : Exchange) : Prop :=
  (x.core side).txlog = base ++ ((x.wire side).brought ++ (x.wire side).waiting)

theorem moveBy_faithful {side : Side} {t : Turn} {x y : Exchange} (h : x.moveBy side t = .next y) (hx : x.faithful)
    (i : Side) (base : List Datagram) (hc : x.carries i base) : y.faithful ∧ y.carries i base := by
  obtain ⟨s, hs, rfl⟩ := moveBy_next h
  obtain ⟨h1, h2⟩ := (faithful_iff side x).1 hx
  rw [sendAll_faithful h1]
  refine ⟨(faithful_iff side _).2 ⟨by simpa [Wire.faithful] using h1, by simpa using h2⟩, ?_⟩
  obtain rfl | rfl : i = side ∨ i = side.other := by cases i <;> cases side <;> simp [Side.other]
  · simp only [Exchange.carries, core_setWire, core_setCore_self, wire_setWire_self]
    rw [turnStep_txlog hs, hc]
    simp
  · simpa [Exchange.carries] using hc

theorem bring_faithful (side : Side) {x : Exchange} (hx : x.faithful) (i : Side) (base : List Datagram)
    (hc : x.carries i base) : (x.bring side).faithful ∧ (x.bring side).carries i base := by
  obtain ⟨h1, h2⟩ := (faithful_iff side x).1 hx
  unfold Exchange.bring
  split
  · exact ⟨hx, hc⟩
  · rename_i d rest hw
    refine ⟨(faithful_iff side _).2 ⟨by simpa [Wire.faithful] using h1, by simpa using h2⟩, ?_⟩
    obtain rfl | rfl : i = side ∨ i = side.other := by cases i <;> cases side <;> simp [Side.other]
    · simpa [Exchange.carries, hw] using hc
    · simpa [Exchange.carries] using hc

theorem bringAll_faithful (side : Side) {x : Exchange} (hx : x.faithful) (i : Side) (base : List Datagram)
    (hc : x.carries i base) : (x.bringAll side).faithful ∧ (x.bringAll side).carries i base := by
  obtain ⟨h1, h2⟩ := (faithful_iff side x).1 hx
  refine ⟨(faithful_iff side _).2
    ⟨by simpa [Exchange.bringAll, Wire.faithful] using h1, by simpa [Exchange.bringAll] using h2⟩, ?_⟩
  obtain rfl | rfl : i = side ∨ i = side.other := by cases i <;> cases side <;> simp [Side.other]
  · simpa [Exchange.carries, Exchange.bringAll] using hc
  · simpa [Exchange.carries, Exchange.bringAll] using hc

/-- A faithful link holds nothing to release. -/
theorem release_faithful (side : Side) (k : Nat) {x : Exchange} (hx : x.faithful) : x.release side k = x := by
  simp [Exchange.release, ((faithful_iff side x).1 hx).1.2]

/-- R63: over any turn a faithful link stays faithful, and what it has brought to a core, with what it still carries, is
exactly what the other core emitted, unchanged, once, in emission order. -/
theorem exchangeTurn_faithful {t : PairTurn} {x y : Exchange} (h : exchangeTurn t x = .next y) (hx : x.faithful)
    (i : Side) (base : List Datagram) (hc : x.carries i base) : y.faithful ∧ y.carries i base := by
  cases t <;> simp only [exchangeTurn] at h
  case core side => exact moveBy_faithful h hx i base hc
  case host side => exact moveBy_faithful h hx i base hc
  case reset side => exact moveBy_faithful h hx i base hc
  case grant side b => exact moveBy_faithful h hx i base hc
  case tick side =>
    obtain ⟨h1, h2⟩ := bringAll_faithful side hx i base hc
    exact moveBy_faithful h h1 i base h2
  case bring side => cases h; exact bring_faithful side hx i base hc
  case release side k => cases h; rw [release_faithful side k hx]; exact ⟨hx, hc⟩

/-- The same over any number of turns. -/
theorem exchangeTurns_faithful {ts : List PairTurn} {x y : Exchange} (h : exchangeTurns ts x = .next y)
    (hx : x.faithful) (i : Side) (base : List Datagram) (hc : x.carries i base) : y.faithful ∧ y.carries i base := by
  induction ts generalizing x with
  | nil => cases h; exact ⟨hx, hc⟩
  | cons t ts ih =>
    simp only [exchangeTurns] at h
    cases ht : exchangeTurn t x <;> rw [ht] at h <;> simp only [reduceCtorEq] at h
    obtain ⟨h1, h2⟩ := exchangeTurn_faithful ht hx i base hc
    exact ih h h1 h2

/-- "Before A's next clock tick" (R63): after a core's tick nothing it emitted before is still on its way. -/
theorem exchangeTurn_tick_brings {side : Side} {x y : Exchange} (h : exchangeTurn (.tick side) x = .next y) :
    (y.wire side).waiting = [] := by
  simp only [exchangeTurn] at h
  obtain ⟨s, hs, rfl⟩ := moveBy_next h
  cases hs
  have e : ∀ s : State, emitted s s.tick = [] := fun s => by
    obtain ⟨-, e⟩ | ⟨-, e⟩ := tick_cases s <;> rw [e] <;> simp [emitted]
  simp [e, Wire.sendAll, Exchange.bringAll]

end Sys2Proof.Machine
end

