-- ==== Sys2Proof/Laws/PerInstr.lean ====
section
/-! SUPPORT. Facts stated of every instruction as a term, one lemma per constructor. -/

namespace Sys2Proof.Laws.EncodedLength

/-- The encoded length of each row: the lengths of R93's table, and `19 + L` for a frame in its envelope (R56). -/
def bytes : Instr → Nat
  | .openHandle => 1
  | .closeHandle => 1
  | .build _ _ _ payload => 4 + payload.length
  | .validate f => 5 + f.payload.length
  | .lsend _ => 7
  | .lrecv _ => 8
  | .rsend _ _ => 14
  | .rrecv _ => 8
  | .seqrd => 1
  | .seqadv => 1
  | .ack _ b => 19 + b.payload.length
  | .nack _ b => 19 + b.payload.length
  | .tag2 _ b => 19 + b.payload.length
  | .tag3 _ b => 19 + b.payload.length
  | .tag4 _ b => 19 + b.payload.length
  | .data _ b => 19 + b.payload.length
  | .fileText _ b => 19 + b.payload.length
  | .fileVideo _ b => 19 + b.payload.length
  | .fileImage _ b => 19 + b.payload.length
  | .endOfFile _ b => 19 + b.payload.length
  | .moveRight _ b => 19 + b.payload.length
  | .moveUp _ b => 19 + b.payload.length
  | .moveDown _ b => 19 + b.payload.length
  | .moveLeft _ b => 19 + b.payload.length
  | .tag14 _ b => 19 + b.payload.length
  | .error _ b => 19 + b.payload.length

/-- An instruction's encoding has the length its row gives. -/
def Statement (i : Instr) : Prop := (encode i).length = bytes i

theorem openHandle : Statement .openHandle := rfl
theorem closeHandle : Statement .closeHandle := rfl
theorem build (seq typ len : Byte) (payload : List Byte) : Statement (.build seq typ len payload) := by
  simp [Statement, encode, bytes]; omega
theorem validate (f : Frame) : Statement (.validate f) := by
  simp [Statement, encode, bytes]; omega
theorem lsend (dest : Addr) : Statement (.lsend dest) := rfl
theorem lrecv (filter : Filter) : Statement (.lrecv filter) := by simp [Statement, encode, bytes]
theorem rsend (dest : Addr) (filter : Filter) : Statement (.rsend dest filter) := by
  simp [Statement, encode, bytes]
theorem rrecv (filter : Filter) : Statement (.rrecv filter) := by simp [Statement, encode, bytes]
theorem seqrd : Statement .seqrd := rfl
theorem seqadv : Statement .seqadv := rfl
theorem ack (e : Envelope) (b : Body) : Statement (.ack e b) := datagramBytes_length 0 e b
theorem nack (e : Envelope) (b : Body) : Statement (.nack e b) := datagramBytes_length 1 e b
theorem tag2 (e : Envelope) (b : Body) : Statement (.tag2 e b) := datagramBytes_length 2 e b
theorem tag3 (e : Envelope) (b : Body) : Statement (.tag3 e b) := datagramBytes_length 3 e b
theorem tag4 (e : Envelope) (b : Body) : Statement (.tag4 e b) := datagramBytes_length 4 e b
theorem data (e : Envelope) (b : Body) : Statement (.data e b) := datagramBytes_length 5 e b
theorem fileText (e : Envelope) (b : Body) : Statement (.fileText e b) := datagramBytes_length 6 e b
theorem fileVideo (e : Envelope) (b : Body) : Statement (.fileVideo e b) := datagramBytes_length 7 e b
theorem fileImage (e : Envelope) (b : Body) : Statement (.fileImage e b) := datagramBytes_length 8 e b
theorem endOfFile (e : Envelope) (b : Body) : Statement (.endOfFile e b) := datagramBytes_length 9 e b
theorem moveRight (e : Envelope) (b : Body) : Statement (.moveRight e b) := datagramBytes_length 10 e b
theorem moveUp (e : Envelope) (b : Body) : Statement (.moveUp e b) := datagramBytes_length 11 e b
theorem moveDown (e : Envelope) (b : Body) : Statement (.moveDown e b) := datagramBytes_length 12 e b
theorem moveLeft (e : Envelope) (b : Body) : Statement (.moveLeft e b) := datagramBytes_length 13 e b
theorem tag14 (e : Envelope) (b : Body) : Statement (.tag14 e b) := datagramBytes_length 14 e b
theorem error (e : Envelope) (b : Body) : Statement (.error e b) := datagramBytes_length 15 e b

end Sys2Proof.Laws.EncodedLength
end

