-- ==== Sys2Proof/Laws/Run.lean ====
section
/-! SUPPORT. Runs of several steps: how they join, and what the clock does over many of them. -/

namespace Sys2Proof.Machine

theorem runSteps_next {s t : State} (h : step s = .next t) (k : Nat) : runSteps (k + 1) s = runSteps k t := by
  simp only [runSteps, h]

theorem runSteps_add {m : Nat} {s t : State} (h : runSteps m s = .next t) (n : Nat) :
    runSteps (m + n) s = runSteps n t := by
  induction m generalizing s with
  | zero => cases h; simp
  | succ m ih =>
    simp only [Nat.succ_add, runSteps] at h ⊢
    cases hs : step s <;> simp only [hs, reduceCtorEq] at h ⊢
    exact ih h

/-- Ticks of a running deadline, up to its end (R159). -/
theorem runSteps_ticks (n : Nat) {s : State} {later : List Turn}
    (hw : s.arqState = .awaitingResponse ∨ s.arqState = .listening)
    (h : s.turns = List.replicate n .tick ++ later) (hn : n ≤ s.timer.toNat) :
    runSteps n s = .next { s with timer := s.timer - BitVec.ofNat 11 n, turns := later } := by
  induction n generalizing s with
  | zero =>
    have h' : s.turns = later := by simpa using h
    subst h'
    simp [runSteps]
  | succ n ih =>
    have hne : s.timer ≠ 0 := by
      intro h
      rw [h] at hn
      simp at hn
    have hp : State.polling { s with turns := List.replicate n .tick ++ later } = true := polling_iff.2 ⟨hw, hne⟩
    have e : step s = .next { s with timer := s.timer - 1, turns := List.replicate n .tick ++ later } := by
      rw [List.replicate_succ, List.cons_append] at h
      rw [step_cons h]
      simp only [turnStep, State.tick, hp, if_true]
    rw [runSteps_next e]
    have := timer_pred hne
    refine (ih (s := { s with timer := s.timer - 1, turns := List.replicate n .tick ++ later }) hw rfl
      (by simp only; omega)).trans ?_
    congr 2
    simp only
    bv_omega

end Sys2Proof.Machine
end

