-- ==== Sys2Proof/Tests/Slice0.lean ====
section
/-! SUPPORT. The model's own tests. Words are written out from spec/30_encoding.md (R81, R82, R85, R93) and
spec/20_memory.md (R55); expected results are the vectors V1 to V136 of spec/95_test_vectors.md, named by number. At the
end, one witness for the hypotheses of each statement. -/

namespace Sys2Proof.Tests

open Sys2Proof.Machine

/-! ## The small states and datagrams of spec/95_test_vectors.md -/

/-- Station A. -/
def stA : Addr := ⟨0x02, 0, 0, 0, 0, 0x0A⟩
/-- Station B. -/
def stB : Addr := ⟨0x02, 0, 0, 0, 0, 0x0B⟩
/-- `P`, the source pattern of the listings. -/
def stP : Addr := ⟨0xFF, 0xFF, 0xFF, 0xFF, 0xFF, 0xFF⟩

/-- The frame of V3. -/
def v3 : Frame := ⟨3, 5, 5, 0x03, [1, 2, 3]⟩

/-- The envelope to B from P, 14 bytes. -/
def envB : List Byte := [0x02, 0, 0, 0, 0, 0x0B, 0xFF, 0xFF, 0xFF, 0xFF, 0xFF, 0xFF, 0x88, 0xB5]
/-- The envelope to P from P. -/
def envP : List Byte := [0xFF, 0xFF, 0xFF, 0xFF, 0xFF, 0xFF, 0xFF, 0xFF, 0xFF, 0xFF, 0xFF, 0xFF, 0x88, 0xB5]

/-- V30's datagram. -/
def d0 : Datagram := envB ++ [0x7E, 0x03, 0x05, 0x05, 0x03, 0x01, 0x02, 0x03]
/-- V47's datagram: a corrupted payload byte. -/
def d47 : Datagram := envB ++ [0x7E, 0x03, 0x05, 0x05, 0x03, 0x01, 0x02, 0x07]
/-- V51's datagram: a reserved bit in the sequence byte. -/
def d51 : Datagram := envB ++ [0x7E, 0x03, 0x25, 0x05, 0x03, 0x01, 0x02, 0x03]
/-- V32's datagram, `ack5`. -/
def ack5 : Datagram := envP ++ [0x7E, 0x00, 0x05, 0x00, 0x05]
/-- V33's datagram, `nack5`. -/
def nack5 : Datagram := envP ++ [0x7E, 0x00, 0x05, 0x01, 0x04]

/-- `S0`: reset, then OPEN granted. -/
def s0 : State := { State.reset with linkState := .opened, result := .ok }
/-- `S0` with V3's frame built. -/
def sBuilt : State := { s0 with txf := some v3 }
/-- An RSEND to B just accepted, the core to move. -/
def sSending : State :=
  { sBuilt with txdest := stB, arqState := .sending, result := .none, turns := [.core] }
/-- The same after its transmit step, with `ack5` waiting. -/
def sWaiting : State :=
  { sSending with arqState := .awaitingResponse, timer := 1990, txlog := [d0], rxq := [ack5] }
/-- An RRECV accepted 100 ticks ago, with V30's datagram waiting. -/
def sListening : State :=
  { s0 with arqState := .listening, timer := 1900, result := .none, rxq := [d0], turns := [.core] }

/-- The state an outcome goes on in. -/
def after : Host.Outcome State Fault Refusal → Option State
  | .next s => some s
  | .fault _ => none
  | .refused _ => none

/-- The instruction a decoder answers and the bytes it leaves. -/
def read (r : Except DecodeError (Instr × List Byte)) : Option (Instr × List Byte) := r.toOption

/-! ## Well-formedness -/

theorem test_wf_refuses_short_build : Instr.wf (.build 0 5 3 [1, 2]) = false := by decide
theorem test_wf_refuses_short_validate : Instr.wf (.validate ⟨3, 5, 5, 3, [1, 2]⟩) = false := by decide
theorem test_wf_refuses_long_frames :
    let e : Envelope := ⟨stB, stP, 0x88B5⟩
    let b : Body := ⟨0x7E, 1, 5, 0, [1, 2]⟩
    [Instr.ack e b, .nack e b, .tag2 e b, .tag3 e b, .tag4 e b, .data e b, .fileText e b, .fileVideo e b,
      .fileImage e b, .endOfFile e b, .moveRight e b, .moveUp e b, .moveDown e b, .moveLeft e b, .tag14 e b,
      .error e b].all (fun i => !i.wf) = true := by decide
theorem test_wf_admits : Instr.wf (.validate v3) = true := by decide

/-! ## Decoding: words written out from the encodings -/

/-- Programs P1 and P2: the bytes of each command as R93 lays them out. -/
theorem test_decode_build : read (decodeCommand [0x10, 0x25, 0x14, 0x00]) = some (.build 37 20 0 [], []) := by decide
theorem test_decode_build_payload :
    read (decodeCommand [0x10, 0x05, 0x05, 0x03, 0x01, 0x02, 0x03, 0x41]) =
      some (.build 5 5 3 [1, 2, 3], [0x41]) := by decide
theorem test_decode_validate :
    read (decodeCommand [0x11, 0x00, 0x05, 0x04, 0x31]) = some (.validate ⟨0, 5, 4, 0x31, []⟩, []) := by decide
theorem test_decode_open : read (decodeCommand [0x01]) = some (.openHandle, []) := by decide
theorem test_decode_close : read (decodeCommand [0x02]) = some (.closeHandle, []) := by decide
theorem test_decode_lsend : read (decodeCommand [0x20, 0x02, 0, 0, 0, 0, 0x0B]) = some (.lsend stB, []) := by decide
theorem test_decode_lrecv :
    read (decodeCommand [0x21, 0x01, 0x02, 0, 0, 0, 0, 0x0A]) = some (.lrecv (some stA), []) := by decide
/-- The address bytes are "present and not used" when the flag is 0. -/
theorem test_decode_lrecv_unused :
    read (decodeCommand [0x21, 0x00, 0x02, 0, 0, 0, 0, 0x0A]) = some (.lrecv none, []) := by decide
theorem test_decode_rsend :
    read (decodeCommand [0x30, 0x02, 0, 0, 0, 0, 0x0B, 0x01, 0xFF, 0xFF, 0xFF, 0xFF, 0xFF, 0xFF]) =
      some (.rsend stB (some stP), []) := by decide
theorem test_decode_rrecv : read (decodeCommand [0x31, 0, 0, 0, 0, 0, 0, 0]) = some (.rrecv none, []) := by decide
theorem test_decode_seqrd : read (decodeCommand [0x40]) = some (.seqrd, []) := by decide
theorem test_decode_seqadv : read (decodeCommand [0x41]) = some (.seqadv, []) := by decide
theorem test_decode_unknown : read (decodeCommand [0x03]) = none := by decide
theorem test_decode_bad_flag : read (decodeCommand [0x31, 0x02, 0, 0, 0, 0, 0, 0]) = none := by decide
/-- VALIDATE of a field out of range "spells no VALIDATE command" (R115). -/
theorem test_decode_validate_range :
    [[0x11, 0x80, 0x00, 0x00, 0x00], [0x11, 0x00, 0x20, 0x00, 0x00], [0x11, 0x00, 0x00, 0x10, 0x00]].all
      (fun w => (read (decodeCommand w)).isNone) = true := by decide

/-- V30, bit by bit: to B, from P, ethertype 88B5, then 7E 03 05 05 03 and the payload. -/
theorem test_decode_data :
    read (decodeDatagram d0) = some (.data ⟨stB, stP, 0x88B5⟩ ⟨0x7E, 3, 5, 3, [1, 2, 3]⟩, []) := by decide

/-- The header `7E 00 05 tt ck` of each tag, as the table numbers it: marker in bits 39 to 32, type in bits 11 to 8
(R81, R85, R96). -/
theorem test_decode_tags :
    let e : Envelope := ⟨⟨0, 0, 0, 0, 0, 0⟩, ⟨0, 0, 0, 0, 0, 0⟩, 0⟩
    let b : Body := ⟨0x7E, 0, 5, 0x3C, []⟩
    decodeTableWord 40 0x7E0005003C = some (.ack e b) ∧ decodeTableWord 40 0x7E0005013C = some (.nack e b) ∧
    decodeTableWord 40 0x7E0005023C = some (.tag2 e b) ∧ decodeTableWord 40 0x7E0005033C = some (.tag3 e b) ∧
    decodeTableWord 40 0x7E0005043C = some (.tag4 e b) ∧ decodeTableWord 40 0x7E0005053C = some (.data e b) ∧
    decodeTableWord 40 0x7E0005063C = some (.fileText e b) ∧
    decodeTableWord 40 0x7E0005073C = some (.fileVideo e b) ∧
    decodeTableWord 40 0x7E0005083C = some (.fileImage e b) ∧
    decodeTableWord 40 0x7E0005093C = some (.endOfFile e b) ∧
    decodeTableWord 40 0x7E00050A3C = some (.moveRight e b) ∧
    decodeTableWord 40 0x7E00050B3C = some (.moveUp e b) ∧
    decodeTableWord 40 0x7E00050C3C = some (.moveDown e b) ∧
    decodeTableWord 40 0x7E00050D3C = some (.moveLeft e b) ∧
    decodeTableWord 40 0x7E00050E3C = some (.tag14 e b) ∧ decodeTableWord 40 0x7E00050F3C = some (.error e b) := by
  decide

/-- A reserved bit in the length, the sequence or the type byte is no row of the table (R89, R96). -/
theorem test_decode_reserved :
    decodeTableWord 40 0x7E80050500 = none ∧ decodeTableWord 40 0x7E00250500 = none ∧
    decodeTableWord 40 0x7E00051500 = none := by decide

/-- The command rows: the code byte, operands of zeros. -/
theorem test_decode_command_rows :
    decodeTableWord 8 0x01 = some .openHandle ∧ decodeTableWord 8 0x10 = some (.build 0 0 0 []) ∧
    decodeTableWord 8 0x21 = some (.lrecv none) ∧ decodeTableWord 8 0x41 = some .seqadv ∧
    decodeTableWord 8 0x00 = none := by decide

/-! ## Codec -/

/-- V2: masking, and the checksum from the masked fields. -/
theorem test_build_masks : build 37 20 [] 0 = ⟨0, 5, 4, 0x01, []⟩ := by decide
set_option maxRecDepth 4000 in
/-- V8: the longest payload. -/
theorem test_build_longest :
    (build 7 5 ((List.range 127).map (BitVec.ofNat 8)) 127).checksum = 0x02 := by decide
/-- V135: above 127, `TXF` is unchanged. -/
theorem test_build_too_long :
    after (exec (.build 0 5 128 (List.replicate 128 0)) sBuilt) = some { sBuilt with result := .lengthError } := by
  decide
/-- V79: BUILD works in any `LINK_STATE`. -/
theorem test_build_failed_handle :
    (after (exec (.build 1 5 0 []) { State.reset with linkState := .failed })).bind State.txf =
      some ⟨0, 1, 5, 0x04, []⟩ := by decide
/-- V21 and V22: a changed payload byte, and payload bytes swapped. -/
theorem test_validate_changed :
    (after (exec (.validate ⟨3, 5, 5, 3, [1, 2, 7]⟩) s0)).map State.result = some (.valid false) := by decide
theorem test_validate_swapped :
    (after (exec (.validate ⟨3, 5, 5, 3, [3, 2, 1]⟩) s0)).map State.result = some (.valid true) := by decide

/-! ## Link transport -/

/-- V30 and V32: the datagrams byte by byte. -/
theorem test_wrap : wrap Config.listing v3 stB = d0 := by decide
theorem test_wrap_ack : wrap Config.listing (ackFrame 5) stP = ack5 := by decide
/-- V33. -/
theorem test_wrap_nack : wrap Config.listing (nackFrame 5) stP = nack5 := by decide
/-- V40 to V42 and V44 to V46. -/
theorem test_unwrap_accepts : unwrap Config.listing d0 (some stB) = .accept v3 stP := by decide
theorem test_unwrap_rejects :
    unwrap Config.listing d0 (some stA) = .reject ∧
    unwrap Config.listing (d0.set 13 0xB4) none = .reject ∧
    unwrap Config.listing (d0.set 14 0x7F) none = .reject ∧
    unwrap Config.listing (d0.take 18) none = .reject := by decide
/-- V49, V50, V51, V53 and V54: what is not intact is a mismatch with the raw sequence byte. -/
theorem test_unwrap_mismatches :
    unwrap Config.listing (d0.set 15 0x04) none = .mismatch 0x05 stP ∧
    unwrap Config.listing (d0.set 15 0x83) none = .mismatch 0x05 stP ∧
    unwrap Config.listing d51 none = .mismatch 0x25 stP ∧
    unwrap Config.listing (d0.set 17 0x15) none = .mismatch 0x05 stP ∧
    unwrap Config.listing (d0.set 18 0x00) none = .mismatch 0x05 stP := by decide
/-- V56: a padded datagram. -/
theorem test_unwrap_padded : unwrap Config.listing (d0 ++ List.replicate 38 0) none = .accept v3 stP := by decide
/-- V60 to V62: LSEND, and the order of its two tests. -/
theorem test_lsend : after (exec (.lsend stB) sBuilt) = some { sBuilt with txlog := [d0], result := .ok } := by decide
theorem test_lsend_refused :
    (after (exec (.lsend stB) s0)).map State.result = some .noTxFrame ∧
    (after (exec (.lsend stB) State.reset)).map State.result = some .transportError := by decide
/-- V64 and V65. -/
theorem test_lrecv :
    after (exec (.lrecv none) { s0 with rxq := [d0] }) =
      some { s0 with rxf := some v3, peer := some stP, result := .frame } := by decide
theorem test_lrecv_mismatch :
    after (exec (.lrecv none) { s0 with rxq := [d47, d0] }) =
      some { s0 with rxq := [d0], result := .checksumMismatch 0x05 stP } := by decide
/-- V71 and V72: only reset leaves `Failed`. -/
theorem test_open_refused :
    (after (exec .openHandle { State.reset with grant := false })).map State.linkState = some .failed := by decide
theorem test_open_failed :
    (after (exec .openHandle { State.reset with linkState := .failed })).map (fun s => (s.linkState, s.result)) =
      some (.failed, .transportError) := by decide
/-- V75 and V76. -/
theorem test_close :
    after (exec .closeHandle { sBuilt with rxq := [d0] }) = some { sBuilt with linkState := .closed } := by decide
theorem test_close_twice :
    after (exec .closeHandle { State.reset with result := .ok }) = some { State.reset with result := .ok } := by decide

/-! ## Sequence tracker -/

/-- V80, V136: SEQRD. -/
theorem test_seqrd :
    after (exec .seqrd { s0 with seq := 9, arqState := .succeeded, result := .received }) =
      some { s0 with seq := 9, arqState := .succeeded, result := .seqValue 9 } := by decide
/-- V83: the wrap. -/
theorem test_seqadv_wraps : (after (exec .seqadv { s0 with seq := 31 })).map State.seq = some 0 := by decide

/-! ## Reliable send -/

/-- V132: a new budget after a failed send. -/
theorem test_rsend_accepted :
    (after (exec (.rsend stB none) { sBuilt with arqState := .failed, attempts := 5 })).map
      (fun s => (s.arqState, s.attempts, s.txdest, s.result)) = some (.sending, 0, stB, .none) := by decide
/-- V130. -/
theorem test_rsend_no_frame :
    after (exec (.rsend stB none) s0) = some { s0 with result := .noTxFrame } := by decide
/-- The transmit step emits V30's datagram and loads 2000. -/
theorem test_transmit :
    (after (step sSending)).map (fun s => (s.txlog, s.timer.toNat, s.arqState)) =
      some ([d0], 2000, .awaitingResponse) := by decide
/-- V90: the matching ACK. -/
theorem test_ack_matches :
    (after (step sWaiting)).map (fun s => (s.result, s.attempts, s.rxq, s.txlog)) =
      some (.succeeded, 0, [], [d0]) := by decide
/-- V96 and V97: another sequence, another type. -/
theorem test_ack_other_sequence :
    after (step { sWaiting with rxq := [envP ++ [0x7E, 0x00, 0x04, 0x00, 0x04]] }) =
      some { sWaiting with rxq := [], turns := [] } := by decide
theorem test_data_is_no_response :
    after (step { sWaiting with rxq := [envP ++ [0x7E, 0x02, 0x05, 0x05, 0x01, 0x01, 0x02]] }) =
      some { sWaiting with rxq := [], turns := [] } := by decide
/-- V94 and V93's last attempt: a NACK uses up an attempt. -/
theorem test_nack_retries :
    (after (step { sWaiting with rxq := [nack5] })).map (fun s => (s.arqState, s.attempts)) =
      some (.sending, 1) := by decide
theorem test_nack_exhausts :
    (after (step { sWaiting with rxq := [nack5], attempts := 4 })).map (fun s => (s.arqState, s.attempts, s.result)) =
      some (.failed, 5, .failedNoAck) := by decide
/-- V99: at `TIMER = 0` the timeout, not the poll. -/
theorem test_timeout_before_poll :
    after (step { sWaiting with timer := 0 }) =
      some { sWaiting with timer := 0, attempts := 1, arqState := .sending, turns := [] } := by decide

/-! ## Reliable receive -/

/-- V73. -/
theorem test_rrecv_failed_handle :
    (after (exec (.rrecv none) { State.reset with linkState := .failed })).map
      (fun s => (s.result, s.arqState, s.timer)) = some (.transportError, .idle, 0) := by decide
theorem test_rrecv_accepted :
    (after (exec (.rrecv (some stA)) s0)).map (fun s => (s.arqState, s.timer.toNat, s.filter, s.result)) =
      some (.listening, 2000, some stA, .none) := by decide
/-- V110: the ACK goes to the observed source, the frame is delivered. -/
theorem test_listener_accepts :
    after (step sListening) = some { sListening with
      rxq := [], turns := [], txlog := [ack5], rxf := some v3, peer := some stP, result := .received,
      arqState := .succeeded } := by decide
/-- V114: the NACK carries `0x25 & 0x1F`, and the deadline runs on. -/
theorem test_listener_nacks :
    after (step { sListening with rxq := [d51] }) =
      some { sListening with rxq := [], turns := [], txlog := [nack5] } := by decide
/-- V119: an ACK is acknowledged and delivered like any frame. -/
theorem test_listener_takes_ack :
    (after (step { sListening with rxq := [ack5] })).map (fun s => (s.txlog, s.rxf, s.result)) =
      some ([ack5], some ⟨0, 5, 0, 5, []⟩, .received) := by decide
/-- V121: at `TIMER = 0` the datagram stays. -/
theorem test_listener_times_out :
    after (step { sListening with timer := 0 }) =
      some { sListening with timer := 0, turns := [], result := .failedTimeout, arqState := .failed } := by decide

/-! ## Frames presented: one of each tag to a listening core -/

/-- The body of tag `t` with sequence 5 and no payload, its checksum `5 ^ t` (R83). -/
def body5 (ck : Byte) : Body := ⟨0x7E, 0, 5, ck, []⟩

theorem test_frames_presented :
    let e : Envelope := ⟨stB, stA, 0x88B5⟩
    let s := { sListening with rxq := [] }
    [Instr.ack e (body5 5), .nack e (body5 4), .tag2 e (body5 7), .tag3 e (body5 6), .tag4 e (body5 1),
      .data e (body5 0), .fileText e (body5 3), .fileVideo e (body5 2), .fileImage e (body5 13),
      .endOfFile e (body5 12), .moveRight e (body5 15), .moveUp e (body5 14), .moveDown e (body5 9),
      .moveLeft e (body5 8), .tag14 e (body5 11), .error e (body5 10)].map
        (fun i => (after (exec i s)).map fun s => (s.rxf.map fun f => f.type.toNat)) =
      (List.range 16).map (fun t => some (some t)) := by decide
/-- V98: a corrupt ACK is "anything else" to a sender. -/
theorem test_corrupt_ack :
    after (exec (.ack ⟨stP, stP, 0x88B5⟩ (body5 6)) sWaiting) = some sWaiting := by decide

/-! ## Events, reset, scheduling -/

/-- V133. -/
theorem test_reset_busy :
    after (step { sWaiting with attempts := 2, seq := 9, txlog := [d0, d0, d0], turns := [.reset] }) =
      some { State.reset with txlog := [d0, d0, d0] } := by decide
/-- V134: a busy core takes no command. -/
theorem test_busy_host :
    after (step { sListening with turns := [.host], commands := [[0x41]] }) =
      some { sListening with turns := [], commands := [[0x41]] } := by decide
/-- A datagram is lost at a closed handle, and at a full queue (R37). -/
theorem test_link_loses :
    after (step { State.reset with turns := [.link d0] }) = some State.reset ∧
    after (step { s0 with config := { Config.listing with rxqDepth := some 0 }, turns := [.link d0] }) =
      some { s0 with config := { Config.listing with rxqDepth := some 0 } } := by decide
/-- The clock has no effect outside the two waiting states (R26). -/
theorem test_tick_idle : after (step { sSending with timer := 7, turns := [.tick] }) =
    some { sSending with timer := 7, turns := [] } := by decide
/-- Placing a row's word (log entry 9): SEQADV runs next on a busy core's state, an ACK frame next from reset. -/
theorem test_placed_command :
    (after (step (State.withFetchWord sListening 8 0x41))).map (fun s => (s.seq, s.result)) = some (1, .ok) := by
  decide
theorem test_placed_frame :
    (after (step (State.withFetchWord State.reset 40 0x7E00050005))).map (fun s => (s.arqState, s.rxq)) =
      some (.listening, []) := by decide

/-! ## Two cores, and the host's sequences -/

/-- The pair an outcome goes on in. -/
def pair : Host.Outcome Exchange Fault Refusal → Option Exchange
  | .next x => some x
  | .fault _ => none
  | .refused _ => none

/-- A sender about to transmit and a listener, nothing on the link, with the exceptions a script states. -/
def onLink (script : List LinkAct) : Exchange :=
  { a := sSending, b := { sListening with rxq := [] }, ab := ⟨[], [], script, []⟩, ba := ⟨[], [], [], []⟩ }

/-- An exchange over a link, with the moves of one attempt. -/
def exchangedBy (script : List LinkAct) : Option Exchange :=
  pair (exchangeTurns [.core .a, .bring .a, .core .b, .bring .b, .core .a] (onLink script))

/-- The first exchange of program P7's run, not corrupted. -/
def exchanged : Option Exchange := exchangedBy []

/-- P7: "it corrupts payload byte 03 -> 07 of a's first datagram": `nack5` comes back and uses up an attempt. -/
theorem test_exchange_corrupted :
    (exchangedBy [.corrupt 21 0x07]).map (fun x => (x.a.attempts, x.a.arqState, x.b.arqState, x.b.txlog)) =
      some (1, .sending, .listening, [nack5]) := by decide
/-- X5: "the simulated transport drops": nothing arrives. -/
theorem test_exchange_dropped :
    (exchangedBy [.drop]).map (fun x => (x.a.arqState, x.a.txlog, x.b.rxq, x.b.txlog)) =
      some (.awaitingResponse, [d0], [], []) := by decide
/-- R63: "before A's next clock tick", in emission order. -/
theorem test_exchange_tick_brings :
    (pair (exchangeTurns [.core .a, .tick .a] (onLink []))).map (fun x => (x.b.rxq, x.ab.waiting, x.ab.brought)) =
      some ([d0], [], [d0]) := by decide
/-- `Succeeded` and `Received` over a faithful link, one datagram each way. -/
theorem test_exchange_results :
    exchanged.map (fun x => (x.a.result, x.b.result)) = some (.succeeded, .received) := by decide
theorem test_exchange_datagrams :
    exchanged.map (fun x => (x.b.rxf, x.a.txlog, x.b.txlog)) = some (some v3, [d0], [ack5]) := by decide
set_option maxRecDepth 4000 in
/-- X8: 300 bytes are chunks of 127, 127 and 46. -/
theorem test_chunks : (chunks (List.replicate 300 0)).map List.length = [127, 127, 46] := by decide
/-- X9: strictly below the threshold. -/
theorem test_storage : storageRefusal 9 10 = some (15, [1]) ∧ storageRefusal 10 10 = none := by decide
/-- Program P3's four commands. -/
theorem test_send_one : sendOne 0 5 [1, 2, 3] stB none =
    [.seqrd, .build 0 5 3 [1, 2, 3], .rsend stB none, .seqadv] := by decide

/-! ## Witnesses: for each statement with hypotheses, concrete values that meet them, one for each clause -/

/-- The envelope to B from P, as a term. -/
def e0 : Envelope := ⟨stB, stP, 0x88B5⟩
/-- The body of `ack5`. -/
def bAck : Body := ⟨0x7E, 0, 5, 5, []⟩
/-- The body of `nack5`. -/
def bNack : Body := ⟨0x7E, 0, 5, 4, []⟩
/-- A body whose checksum is wrong under every tag but 1. -/
def bBad : Body := bNack
/-- A body with the longest payload. -/
def bLong : Body := ⟨0x7E, 127, 31, 0, List.replicate 127 0xAA⟩
/-- A marker other than the listing's. -/
def bMarker : Body := ⟨0x7F, 0, 5, 5, []⟩

set_option maxRecDepth 4000 in
theorem witness_DecodeEncodeEveryInstruction :
    Instr.wf (.build 255 255 255 (List.replicate 255 0xFF)) = true ∧ Instr.wf (.error e0 bLong) = true ∧
    Instr.wf (.validate ⟨127, 31, 15, 0, List.replicate 127 0⟩) = true := ⟨rfl, rfl, rfl⟩

theorem witness_DecodedBytesAreTheEncoding :
    decode .command [0x40, 0x01] = .ok (.seqrd, [0x01]) ∧
    decode .receive (d0 ++ [0]) = .ok (.data e0 ⟨0x7E, 3, 5, 3, [1, 2, 3]⟩, [0]) ∧
    decode .command [0x31, 0x00, 1, 2, 3, 4, 5, 6, 0x41] = .ok (.rrecv none, [0x41]) ∧
    decode .command [0x30, 0x02, 0, 0, 0, 0, 0x0B, 0x00, 1, 2, 3, 4, 5, 6] = .ok (.rsend stB none, []) :=
  ⟨rfl, rfl, rfl, rfl⟩

theorem witness_FrameRowsAreChosenByTheMask :
    (0xFF7F1F0FFF < 2 ^ 40 ∧ 0xFF7F1F0FFF &&& 0x0080E0FF00 = 15 * 256) ∧
    (0 < 2 ^ 40 ∧ 0 &&& 0x0080E0FF00 = 0 * 256) ∧
    (0xFFFFFFFFFF < 2 ^ 40 ∧ ∀ t : Nat, t < 16 → 0xFFFFFFFFFF &&& 0x0080E0FF00 ≠ t * 256) := by
  decide

theorem witness_UnspelledCommandChangesNothing :
    State.ready { s0 with turns := [.host], commands := [[0x00], [0x21, 0x02]] } = true ∧
    (0x00 : Byte) ∉ [0x01, 0x02, 0x10, 0x11, 0x20, 0x21, 0x30, 0x31, 0x40, 0x41] ∧
    (0x42 : Byte) ∉ [0x01, 0x02, 0x10, 0x11, 0x20, 0x21, 0x30, 0x31, 0x40, 0x41] ∧
    (0x21 : Byte) ∈ [0x21, 0x31] ∧ (0x31 : Byte) ∈ [0x21, 0x31] ∧ (2 : Byte) ≠ 0 ∧ (2 : Byte) ≠ 1 ∧
    ([0x02, 0, 0, 0, 0, 0x0B, 2, 0, 0, 0, 0, 0, 0] : List Byte)[6]? = some 2 ∧
    BitVec.toNat (0x80 : Byte) > 127 ∧ BitVec.toNat (0x20 : Byte) > 31 ∧ BitVec.toNat (0x10 : Byte) > 15 ∧
    (operandCount 0x40 [0] ≠ some 1 ∧ operandCount 0x20 [2, 0, 0, 0, 0] ≠ some 5 ∧
      operandCount 0x10 [5, 5] ≠ some 2 ∧ operandCount 0x10 [5, 5, 1] ≠ some 3 ∧
      operandCount 0x11 [1, 5, 5, 1] ≠ some 4 ∧ operandCount 0x31 (List.replicate 8 0) ≠ some 8 ∧
      operandCount 0x30 (List.replicate 12 0) ≠ some 12) := by
  decide
/-- The number of operand bytes is the encoded length of R93's table less the code byte. -/
theorem test_operandCount :
    operandCount 0x01 [] = some (1 - 1) ∧ operandCount 0x10 [5, 5, 3, 1, 2, 3] = some (4 + 3 - 1) ∧
    operandCount 0x11 [2, 5, 5, 0, 1, 2] = some (5 + 2 - 1) ∧ operandCount 0x20 [] = some (7 - 1) ∧
    operandCount 0x21 [] = some (8 - 1) ∧ operandCount 0x30 [] = some (14 - 1) ∧ operandCount 0x31 [] = some (8 - 1) ∧
    operandCount 0x41 [] = some (1 - 1) ∧ operandCount 0x03 [] = none := by decide

theorem witness_BuildMasksAndChecksums :
    BitVec.toNat (127 : Byte) ≤ 127 ∧ (List.replicate 127 (0xAA : Byte)).length = BitVec.toNat (127 : Byte) :=
  ⟨by decide, rfl⟩

theorem witness_BuildCommand :
    s0.ready = true ∧
    ((List.replicate 127 (0 : Byte)).length = BitVec.toNat (127 : Byte) ∧ BitVec.toNat (127 : Byte) ≤ 127) ∧
    ((List.replicate 128 (0 : Byte)).length = BitVec.toNat (128 : Byte) ∧ BitVec.toNat (128 : Byte) > 127) :=
  ⟨rfl, ⟨rfl, by decide⟩, rfl, by decide⟩

theorem witness_ValidateCommand : v3.payload.length = v3.length.toNat ∧ s0.ready = true := by decide

theorem witness_OneChangedFieldIsDetected :
    validate v3 = true ∧ 2 < v3.payload.length ∧ v3.payload[2]? ≠ some 7 ∧ (2 : BitVec 7) ≠ v3.length ∧
    (4 : BitVec 5) ≠ v3.sequence ∧ (4 : BitVec 4) ≠ v3.type ∧ (0 : Byte) ≠ v3.checksum := by decide

theorem witness_ReorderedPayloadValidatesAlike : v3.payload.Perm [3, 2, 1] := by decide

theorem witness_OpenCommand :
    State.reset.ready = true ∧ State.reset.linkState = .closed ∧
    (State.grant { State.reset with grant := true } = true ∧ State.grant { State.reset with grant := false } = false) ∧
    (s0.ready = true ∧ s0.linkState = .opened) ∧
    (State.ready { s0 with linkState := .failed } = true ∧
      State.linkState { s0 with linkState := .failed } = .failed) := by decide

theorem witness_CloseCommand :
    (s0.ready = true ∧ s0.linkState = .opened) ∧
    (State.reset.ready = true ∧ State.reset.linkState = .closed) ∧
    (State.ready { s0 with linkState := .failed } = true ∧
      State.linkState { s0 with linkState := .failed } = .failed) := by decide

theorem witness_WrapByteMap :
    (Frame.payload ⟨127, 0, 5, 0xD0, List.replicate 127 0xAA⟩).length = BitVec.toNat (127 : BitVec 7) ∧
    (Frame.payload ⟨0, 0, 0, 0, []⟩).length = BitVec.toNat (0 : BitVec 7) := ⟨rfl, rfl⟩

theorem witness_UnwrapAcceptsExactlyIntact :
    unwrap Config.listing d0 none ≠ .reject ∧ unwrap Config.listing (d0.set 15 0x80) none ≠ .reject ∧
    unwrap Config.listing d47 none = .mismatch 0x05 stP ∧ unwrap Config.listing d0 none = .accept v3 stP := by
  decide

theorem witness_RoundTripOnTheLink :
    v3.payload.length = v3.length.toNat ∧ validate v3 = true ∧ stA ≠ stB ∧
    validate { v3 with checksum := 0 } = false := by decide

theorem witness_TrailingBytesAreIgnored :
    19 + (byteAt d0 15).toNat = d0.length ∧ 19 + (byteAt ack5 15).toNat = ack5.length ∧ 19 ≤ ack5.length := by
  decide

theorem witness_LsendCommand :
    (State.reset.ready = true ∧ State.reset.linkState ≠ .opened) ∧
    (s0.ready = true ∧ s0.linkState = .opened ∧ s0.txf = none) ∧
    (sBuilt.ready = true ∧ sBuilt.linkState = .opened ∧ sBuilt.txf = some v3) := by decide

theorem witness_LrecvCommand :
    (State.reset.ready = true ∧ State.reset.linkState ≠ .opened) ∧
    (s0.ready = true ∧ s0.linkState = .opened ∧ s0.rxq = []) ∧
    unwrap s0.config d0 (some stA) = .reject ∧ unwrap s0.config d47 none = .mismatch 0x05 stP ∧
    unwrap s0.config d0 none = .accept v3 stP := by decide

theorem witness_SeqrdCommand : State.ready { s0 with arqState := .failed } = true := by decide

theorem witness_SeqadvCommand : State.ready { s0 with seq := 31 } = true := by decide

theorem witness_SequenceCountsModulo32 : State.reset.ready = true ∧ State.reset.seq = State.reset.seq := by decide

theorem witness_RsendAcceptance :
    (State.reset.ready = true ∧ State.reset.linkState ≠ .opened) ∧
    (s0.ready = true ∧ s0.linkState = .opened ∧ s0.txf = none) ∧
    (sBuilt.ready = true ∧ sBuilt.linkState = .opened ∧ sBuilt.txf = some v3) := by decide

theorem witness_TransmitStep :
    sSending.turns = [.core] ∧ sSending.arqState = .sending ∧ sSending.txf = some v3 := by decide

theorem witness_SendPollStep :
    (sWaiting.turns = [.core] ∧ sWaiting.arqState = .awaitingResponse ∧ sWaiting.timer ≠ 0 ∧
      sWaiting.txf = some v3 ∧ sWaiting.rxq = [ack5]) ∧ State.rxq { sWaiting with rxq := [] } = [] ∧
    unwrap sWaiting.config ack5 sWaiting.filter = .accept (ackFrame 5) stP ∧
    unwrap sWaiting.config nack5 sWaiting.filter = .accept (nackFrame 5) stP ∧
    unwrap sWaiting.config d0 sWaiting.filter = .accept v3 stP ∧ v3.type ≠ 0 ∧ v3.type ≠ 1 ∧
    unwrap sWaiting.config d47 sWaiting.filter = .mismatch 0x05 stP := by decide

theorem witness_TimeoutSteps :
    State.turns { sWaiting with timer := 0 } = [.core] ∧ State.timer { sWaiting with timer := 0 } = 0 ∧
    sWaiting.arqState = .awaitingResponse ∧ State.timer { sListening with timer := 0 } = 0 ∧
    sListening.turns = [.core] ∧ sListening.arqState = .listening := by decide

theorem passes_ack : passesReject sWaiting.config sWaiting.filter e0 bAck := ⟨rfl, nofun, rfl⟩
theorem passes_nack : passesReject sWaiting.config sWaiting.filter e0 bNack := ⟨rfl, nofun, rfl⟩
theorem passes_filtered : passesReject Config.listing (some stB) e0 bAck := ⟨rfl, by rintro a ⟨⟩; rfl, rfl⟩
theorem fails_marker : ¬passesReject sWaiting.config sWaiting.filter e0 bMarker := by
  rintro ⟨-, -, h⟩
  exact absurd h (by decide)
theorem carries_ack : carriesChecksum 0 bAck := by unfold carriesChecksum; decide
theorem carries_nack : carriesChecksum 1 bNack := by unfold carriesChecksum; decide
theorem fails_bad : ¬carriesChecksum 0 bBad := by unfold carriesChecksum; decide

theorem witness_AckEndsReliableSend :
    sWaiting.arqState = .awaitingResponse ∧ sWaiting.timer ≠ 0 ∧ sWaiting.txf = some v3 ∧
    bAck.payload.length = bAck.length.toNat ∧ passesReject sWaiting.config sWaiting.filter e0 bAck ∧
    carriesChecksum 0 bAck ∧ bAck.sequence = v3.sequence :=
  ⟨rfl, by decide, rfl, rfl, passes_ack, carries_ack, rfl⟩

theorem witness_NackEndsTheAttempt :
    sWaiting.arqState = .awaitingResponse ∧ sWaiting.timer ≠ 0 ∧ sWaiting.txf = some v3 ∧
    bNack.payload.length = bNack.length.toNat ∧ passesReject sWaiting.config sWaiting.filter e0 bNack ∧
    carriesChecksum 1 bNack ∧ bNack.sequence = v3.sequence :=
  ⟨rfl, by decide, rfl, rfl, passes_nack, carries_nack, rfl⟩

/-- One witness for each of the four alternatives. -/
theorem witness_AnythingElseKeepsPolling :
    sWaiting.arqState = .awaitingResponse ∧ sWaiting.timer ≠ 0 ∧ sWaiting.txf = some v3 ∧
    (Instr.asFrame (.ack e0 { bAck with sequence := 4 }) = some (0, e0, { bAck with sequence := 4 }) ∧
      Body.sequence { bAck with sequence := 4 } ≠ v3.sequence) ∧
    (Instr.asFrame (.tag2 e0 bAck) = some (2, e0, bAck) ∧ (2 : BitVec 4) ≠ 0 ∧ (2 : BitVec 4) ≠ 1) ∧
    ¬passesReject sWaiting.config sWaiting.filter e0 bMarker ∧ ¬carriesChecksum 0 bBad :=
  ⟨rfl, by decide, rfl, ⟨rfl, by decide⟩, ⟨rfl, by decide, by decide⟩, fails_marker, fails_bad⟩

theorem witness_RrecvAcceptance :
    (State.reset.ready = true ∧ State.reset.linkState ≠ .opened) ∧ (s0.ready = true ∧ s0.linkState = .opened) := by
  decide

theorem witness_ReceivePollStep :
    (sListening.turns = [.core] ∧ sListening.arqState = .listening ∧ sListening.timer ≠ 0 ∧
      sListening.rxq = [d0]) ∧ State.rxq { sListening with rxq := [] } = [] ∧
    unwrap sListening.config d0 sListening.filter = .accept v3 stP ∧
    unwrap sListening.config d51 sListening.filter = .mismatch 0x25 stP ∧
    unwrap sListening.config [] sListening.filter = .reject := by decide

theorem witness_ListenerTakesEveryIntactFrame :
    Instr.asFrame (.ack e0 bAck) = some (0, e0, bAck) ∧ sListening.arqState = .listening ∧ sListening.timer ≠ 0 ∧
    bAck.payload.length = bAck.length.toNat ∧ passesReject sListening.config sListening.filter e0 bAck ∧
    passesReject Config.listing (some stB) e0 bAck ∧ carriesChecksum 0 bAck :=
  ⟨rfl, rfl, by decide, rfl, passes_ack, passes_filtered, carries_ack⟩

theorem witness_ListenerRefusesTheRest :
    sListening.arqState = .listening ∧ sListening.timer ≠ 0 ∧ bBad.payload.length = bBad.length.toNat ∧
    (passesReject sListening.config sListening.filter e0 bBad ∧ ¬carriesChecksum 0 bBad) ∧
    ¬passesReject sListening.config sListening.filter e0 bMarker :=
  ⟨rfl, by decide, rfl, ⟨passes_nack, fails_bad⟩, fails_marker⟩

/-- A running deadline of 1, and a stopped one. -/
theorem witness_ClockTick :
    State.timer { sListening with timer := 1 } ≠ 0 ∧ sListening.arqState = .listening ∧
    sWaiting.arqState = .awaitingResponse ∧ State.timer { sListening with timer := 0 } = 0 ∧
    sSending.arqState ≠ .awaitingResponse ∧ sSending.arqState ≠ .listening := by decide

theorem room_unbounded : ∀ n, s0.config.rxqDepth = some n → s0.rxq.length < n := nofun
theorem room_last : ∀ n, (some 2 : Option Nat) = some n → [d0].length < n := by rintro n ⟨⟩; decide
theorem room_full : ¬∀ n, (some 1 : Option Nat) = some n → [d0].length < n :=
  fun h => absurd (h 1 rfl) (by decide)

theorem witness_LinkDelivery :
    (s0.linkState = .opened ∧ ∀ n, s0.config.rxqDepth = some n → s0.rxq.length < n) ∧
    (∀ n, (some 2 : Option Nat) = some n → [d0].length < n) ∧
    ¬(∀ n, (some 1 : Option Nat) = some n → [d0].length < n) ∧ State.reset.linkState ≠ .opened :=
  ⟨⟨rfl, room_unbounded⟩, room_last, room_full, by decide⟩

theorem witness_FrameWaitsUntilPolled :
    Instr.asFrame (.error e0 bLong) = some (15, e0, bLong) ∧
    (s0.arqState ≠ .awaitingResponse ∧ s0.arqState ≠ .listening) ∧ State.timer { sListening with timer := 0 } = 0 ∧
    (s0.linkState = .opened ∧ ∀ n, s0.config.rxqDepth = some n → s0.rxq.length < n) ∧
    State.reset.linkState ≠ .opened :=
  ⟨rfl, by decide, rfl, ⟨rfl, room_unbounded⟩, by decide⟩

theorem witness_NoFrameToSendStops :
    Instr.asFrame (.ack e0 bAck) = some (0, e0, bAck) ∧ State.txf { sWaiting with txf := none } = none ∧
    sWaiting.arqState = .awaitingResponse ∧ sWaiting.timer ≠ 0 ∧
    State.txf { sSending with txf := none } = none ∧ sSending.arqState = .sending ∧ sSending.turns = [.core] := by
  decide

theorem witness_ResetFromAnyState : State.turns { sWaiting with turns := [.reset] } = [.reset] := by decide

theorem witness_BusyCoreTakesNoCommand :
    sSending.busy = true ∧ sWaiting.busy = true ∧ sListening.busy = true ∧ Instr.asFrame .seqadv = none ∧
    State.turns { sListening with turns := [.host] } = [.host] := by decide

theorem witness_NonArqCommandsFrame :
    Instr.asFrame (.lsend stB) = none ∧ (∀ a f, Instr.lsend stB ≠ .rsend a f) ∧ (∀ f, Instr.lsend stB ≠ .rrecv f) ∧
    exec (.lsend stB) sBuilt = .next { sBuilt with txlog := [d0], result := .ok } := by
  refine ⟨rfl, ?_, ?_, rfl⟩ <;> intros <;> nofun

theorem witness_StepRunsTheDecodedInstruction :
    (State.ready { s0 with turns := [.host], commands := [[0x41]] } = true ∧
      decode .command [0x41] = .ok (.seqadv, [])) ∧
    (sListening.turns = [.core] ∧ sListening.polling = true ∧ sListening.rxq = [d0] ∧
      decode .receive d0 = .ok (.data e0 ⟨0x7E, 3, 5, 3, [1, 2, 3]⟩, [])) :=
  ⟨⟨rfl, rfl⟩, rfl, rfl, rfl, rfl⟩

theorem witness_PlacedWordRunsNext :
    decodeTableWord 8 0x41 = some .seqadv ∧ Instr.port .seqadv = .command ∧
    decodeTableWord 40 0x7E00050005 = some (.ack ⟨⟨0, 0, 0, 0, 0, 0⟩, ⟨0, 0, 0, 0, 0, 0⟩, 0⟩ bAck) ∧
    Instr.port (.ack e0 bAck) = .receive := by decide

/-- A listening core with a datagram waiting is legal. -/
theorem legal_listening : sListening.Legal := by
  constructor <;> simp [sListening, s0, State.reset, State.busy, Config.listing, timeoutMs]

theorem witness_StepKeepsLegal :
    sListening.Legal ∧ step sListening = .next { sListening with
      rxq := [], turns := [], txlog := [ack5], rxf := some v3, peer := some stP, result := .received,
      arqState := .succeeded } := ⟨legal_listening, rfl⟩

theorem witness_LegalStepAnswersNext : sListening.Legal := legal_listening

/-- One step for each of the six kinds of transition. -/
theorem witness_ArqStateTransitions :
    (∃ t, step { sBuilt with turns := [.host], commands := [encode (.rsend stB none)] } = .next t ∧
      t.arqState ≠ sBuilt.arqState) ∧
    (∃ t, step { s0 with turns := [.host], commands := [encode (.rrecv none)] } = .next t ∧ t.arqState = .listening) ∧
    (∃ t, step sSending = .next t ∧ turnOf sSending ≠ .reset ∧ t.arqState ≠ sSending.arqState) ∧
    (∃ t, step sWaiting = .next t ∧ turnOf sWaiting ≠ .reset ∧ t.arqState = .succeeded) ∧
    (∃ t, step { sWaiting with attempts := 4, rxq := [nack5] } = .next t ∧ t.arqState = .failed) ∧
    (∃ t, step sListening = .next t ∧ t.arqState ≠ sListening.arqState) ∧
    (∃ t, step { sListening with timer := 0 } = .next t ∧ t.arqState = .failed) :=
  ⟨⟨_, rfl, by decide⟩, ⟨_, rfl, by decide⟩, ⟨_, rfl, by decide, by decide⟩, ⟨_, rfl, by decide, by decide⟩,
    ⟨_, rfl, by decide⟩, ⟨_, rfl, by decide⟩, _, rfl, by decide⟩

theorem witness_FailedHandleLeftOnlyByReset :
    ∃ t, step { State.reset with linkState := .failed, turns := [.host], commands := [[0x01]] } = .next t ∧
      turnOf { State.reset with linkState := .failed, turns := [.host], commands := [[0x01]] } ≠ .reset :=
  ⟨_, rfl, by decide⟩

theorem witness_SequenceWrittenOnlyBySeqadv :
    ∃ t, step { s0 with turns := [.host], commands := [[0x41]] } = .next t ∧ t.seq ≠ s0.seq :=
  ⟨_, rfl, by decide⟩

theorem witness_RunningCommandKeepsItsOperands :
    (∃ t, step sSending = .next t ∧ sSending.busy = true ∧ turnOf sSending ≠ .reset) ∧
    (∃ t, step sListening = .next t ∧ sListening.busy = true ∧ turnOf sListening ≠ .reset ∧ t.txlog = [ack5]) ∧
    (∃ t, step { sListening with rxq := [d51] } = .next t ∧ t.txlog = [nack5]) ∧
    (sSending.arqState = .sending ∧ sSending.txf = some v3 ∧
      (∀ m < 2, ∃ u, runSteps m sSending = .next u ∧ u.busy = true ∧ turnOf u ≠ .reset) ∧
      ∃ t, runSteps 2 sSending = .next t) := by
  refine ⟨⟨_, rfl, by decide, by decide⟩, ⟨_, rfl, by decide, by decide, by decide⟩, ⟨_, rfl, by decide⟩,
    rfl, rfl, fun m hm => ?_, _, rfl⟩
  match m, hm with
  | 0, _ => exact ⟨_, rfl, by decide, by decide⟩
  | 1, _ => exact ⟨_, rfl, by decide, by decide⟩

theorem witness_ReceiveBufferWrittenOnlyOnAcceptance :
    (∃ t, step sListening = .next t ∧ t.rxf ≠ sListening.rxf ∧ turnOf sListening ≠ .reset) ∧
    (∃ t, step { s0 with rxq := [d0], turns := [.host], commands := [encode (.lrecv (some stB))] } = .next t ∧
      t.peer ≠ s0.peer) := ⟨⟨_, rfl, by decide, by decide⟩, _, rfl, by decide⟩

theorem witness_SucceededMeansMatchingAckPopped :
    ∃ t, step sWaiting = .next t ∧ sWaiting.busy = true ∧ t.result = .succeeded ∧ sWaiting.result ≠ .succeeded :=
  ⟨_, rfl, by decide, by decide, by decide⟩

theorem witness_ParametersAndHistoryKept : ∃ t, step sSending = .next t := ⟨_, rfl⟩

theorem witness_SendBound :
    (∃ t, step sSending = .next t ∧ sSending.arqState = .sending ∧ sSending.attempts.toNat < maxAttempts) ∧
    (∃ t, step { sWaiting with attempts := 4, timer := 0 } = .next t ∧
      sWaiting.arqState = .awaitingResponse ∧ BitVec.toNat (4 : BitVec 3) < maxAttempts) ∧
    (∃ t, sBuilt.ready = true ∧ exec (.rsend stB none) sBuilt = .next t ∧ t.arqState = .sending) :=
  ⟨⟨_, rfl, by decide, by decide⟩, ⟨_, rfl, by decide, by decide⟩, _, rfl, rfl, by decide⟩

theorem witness_TickBound :
    (∃ t, step { sListening with turns := [.tick] } = .next t ∧ sListening.busy = true ∧
      sListening.timer.toNat ≤ timeoutMs ∧ sListening.arqState = .listening ∧
      turnOf { sListening with turns := [.tick] } = .tick ∧ sListening.polling = true) ∧
    sSending.arqState = .sending ∧ sWaiting.attempts.toNat < maxAttempts :=
  ⟨⟨_, rfl, by decide, by decide, by decide, by decide, by decide⟩, by decide, by decide⟩

theorem witness_SilentLinkFailsAfterFive :
    ∃ s : State, s.arqState = .sending ∧ s.attempts = 0 ∧ s.txf = some v3 ∧ s.rxq = [] ∧
      s.turns = silentSend ++ [.host] :=
  ⟨{ sSending with turns := silentSend ++ [.host] }, rfl, rfl, rfl, rfl, rfl⟩

/-- The last tick before the deadline. -/
theorem witness_FirstAckSucceeds :
    ∃ s : State, s.arqState = .sending ∧ s.attempts = 0 ∧ s.txf = some v3 ∧ s.rxq = [] ∧ s.linkState = .opened ∧
      s.config.rxqDepth ≠ some 0 ∧ unwrap s.config ack5 s.filter = .accept (ackFrame 5) stP ∧
      (ackFrame 5).sequence = v3.sequence ∧ (ackFrame 5).type = 0 ∧ 1999 < 2000 ∧
      s.turns = .core :: (List.replicate 1999 .tick ++ [.link ack5, .core]) ++ [] :=
  ⟨{ sSending with turns := .core :: (List.replicate 1999 .tick ++ [.link ack5, .core]) ++ [] },
    rfl, rfl, rfl, rfl, rfl, nofun, by decide, rfl, rfl, by decide, rfl⟩

theorem witness_ResultsOfEachCommand :
    (∃ t, s0.ready = true ∧ exec .openHandle s0 = .next t) ∧
    (∃ t, step sWaiting = .next t ∧ turnOf sWaiting ≠ .reset ∧ sWaiting.busy = true ∧ t.busy = false) ∧
    (∃ t, step sListening = .next t ∧ sListening.busy = true ∧ t.busy = false) :=
  ⟨⟨_, rfl, rfl⟩, ⟨_, rfl, by decide, by decide, by decide⟩, _, rfl, by decide, by decide⟩

theorem witness_FaithfulExchangeDelivers :
    (onLink []).faithful ∧ (onLink []).ab.waiting = [] ∧ (onLink []).ba.waiting = [] ∧
    (onLink []).a = sSending ∧ (onLink []).b = { sListening with rxq := [] } ∧
    sSending.arqState = .sending ∧ sSending.txf = some v3 ∧ soundFrame v3 = true ∧
    State.arqState { sListening with rxq := [] } = .listening ∧ sListening.timer ≠ 0 ∧
    sSending.linkState = .opened ∧ sListening.linkState = .opened ∧ sSending.rxq = [] ∧
    sSending.config.rxqDepth ≠ some 0 ∧ sSending.config = sListening.config ∧
    (sSending.filter = none ∨ sSending.filter = some sSending.config.srcPattern) ∧
    (sListening.filter = none ∨ sListening.filter = some sSending.txdest) :=
  ⟨⟨⟨rfl, rfl⟩, rfl, rfl⟩, by decide⟩

theorem witness_TransferSplitsAndReassembles :
    (List.replicate 127 (0x41 : Byte)).length ≤ 127 ∧ ([] : List Byte).length ≤ 127 := ⟨by simp, by simp⟩

end Sys2Proof.Tests
end

section

/-! The state after reset (spec/10_state.md). -/

namespace Sys2Proof.Proofs

/-- Settles O38: `State.reset` writes each of these registers as the last column of the table of R20 has it, so each
value is its field of that record. -/
theorem resetValues : Obligations.ResetValues :=
  ⟨rfl, rfl, rfl, rfl, rfl, rfl, rfl, rfl, rfl, rfl, rfl⟩

end Sys2Proof.Proofs
end

section

/-! What bytes appended to a datagram leave unchanged (spec/20_memory.md rule R57). -/

namespace Sys2Proof.Proofs

open Sys2Proof.Machine

theorem byteAt_append {d : Datagram} {i : Nat} (h : i < d.length) (extra : Datagram) :
    byteAt (d ++ extra) i = byteAt d i :=
  List.getD_append d extra 0 i h

theorem addrAt_append {d : Datagram} {i : Nat} (h : i + 5 < d.length) (extra : Datagram) :
    addrAt (d ++ extra) i = addrAt d i := by
  unfold addrAt
  congr 1 <;> exact byteAt_append (by omega) extra

theorem payloadAt_append {d : Datagram} {n : Nat} (h : minDatagram + n ≤ d.length) (extra : Datagram) :
    payloadAt (d ++ extra) n = payloadAt d n := by
  unfold minDatagram at h
  unfold payloadAt
  rw [List.drop_append_of_le_length (by omega), List.take_append_of_le_length (by rw [List.length_drop]; omega)]

section Header

variable {d : Datagram} (hheader : minDatagram ≤ d.length) (extra : Datagram)
include hheader

theorem byteAt_append_of_header {i : Nat} (hi : i < minDatagram) : byteAt (d ++ extra) i = byteAt d i :=
  byteAt_append (by omega) extra

theorem addrAt_append_of_header {i : Nat} (hi : i + 5 < minDatagram) : addrAt (d ++ extra) i = addrAt d i :=
  addrAt_append (by omega) extra

/-- The reject tests read the header only (R136). -/
theorem rejected_append (c : Config) (filter : Filter) : rejected c (d ++ extra) filter = rejected c d filter := by
  have hshort : ¬d.length < minDatagram := by omega
  have hshort' : ¬(d ++ extra).length < minDatagram := by rw [List.length_append]; omega
  simp (disch := decide) only [rejected, hshort, hshort', byteAt_append_of_header hheader extra,
    addrAt_append_of_header hheader extra]

end Header

section Payload

variable {d : Datagram} (hpayload : minDatagram + (byteAt d 15).toNat ≤ d.length) (extra : Datagram)
include hpayload

/-- The integrity test reads no byte past the declared payload (R57, R137). -/
theorem intact_append : intact (d ++ extra) = intact d := by
  have hheader : minDatagram ≤ d.length := by omega
  have hpayload' : minDatagram + (byteAt d 15).toNat ≤ (d ++ extra).length := by rw [List.length_append]; omega
  simp (disch := decide) only [intact, byteAt_append_of_header hheader extra, payloadAt_append hpayload extra,
    hpayload, hpayload']

/-- The frame read from a datagram holds no byte past the declared payload (R57, R136). -/
theorem frameOf_append : frameOf (d ++ extra) = frameOf d := by
  have hheader : minDatagram ≤ d.length := by omega
  simp (disch := decide) only [frameOf, byteAt_append_of_header hheader extra, payloadAt_append hpayload extra]

end Payload

/-- Settles O17: each thing `unwrap` computes (the reject tests, the integrity test, the frame, the source address and
the raw sequence) reads only bytes that the datagram already holds. -/
theorem trailingBytesAreIgnored : Obligations.TrailingBytesAreIgnored := by
  intro c d extra filter hpayload hheader
  simp (disch := decide) only [unwrap, rejected_append hheader, intact_append hpayload, frameOf_append hpayload,
    addrAt_append_of_header hheader, byteAt_append_of_header hheader]

end Sys2Proof.Proofs
end

section

/-! The checksum as a number, and what changes it: the frame codec (spec/40_frame_codec.md). -/

namespace Sys2Proof.Proofs

open Sys2Proof.Machine

/-! ## The checksum as a number -/

theorem toNat_foldXor (payload : List Byte) : (foldXor payload).toNat = foldNat payload := by
  induction payload with
  | nil => rfl
  | cons b bs ih =>
    calc (foldXor (b :: bs)).toNat = b.toNat ^^^ (foldXor bs).toNat := BitVec.toNat_xor ..
      _ = foldNat (b :: bs) := congrArg (b.toNat ^^^ ·) ih

theorem toNat_checksumOf (l : BitVec 7) (q : BitVec 5) (t : BitVec 4) (payload : List Byte) :
    (checksumOf l q t payload).toNat = l.toNat ^^^ q.toNat ^^^ t.toNat ^^^ foldNat payload := by
  simp only [checksumOf, BitVec.toNat_xor, toNat_foldXor, BitVec.toNat_setWidth_of_le (show 7 ≤ 8 by decide),
    BitVec.toNat_setWidth_of_le (show 5 ≤ 8 by decide), BitVec.toNat_setWidth_of_le (show 4 ≤ 8 by decide)]

theorem validate_eq_true_iff (f : Frame) :
    validate f = true ↔ f.checksum = checksumOf f.length f.sequence f.type f.payload := beq_iff_eq

/-- `validate` in the numbers of R112. -/
theorem validate_eq_decide_toNat (f : Frame) : validate f = decide (f.checksum.toNat =
    f.length.toNat ^^^ f.sequence.toNat ^^^ f.type.toNat ^^^ foldNat f.payload) := by
  rw [Bool.eq_iff_iff, decide_eq_true_iff, validate_eq_true_iff, ← toNat_checksumOf, BitVec.toNat_inj]

/-! ## The checksum tells apart two values of one field -/

/-- Widening a field to a byte loses nothing. -/
theorem setWidth_byte_inj {n : Nat} (h : n ≤ 8) (x y : BitVec n) : x.setWidth 8 = y.setWidth 8 ↔ x = y :=
  (Function.LeftInverse.injective (setWidth_widen h)).eq_iff

section FieldChange

variable (l l' : BitVec 7) (q q' : BitVec 5) (t t' : BitVec 4) (payload : List Byte)

theorem checksumOf_length_inj : checksumOf l q t payload = checksumOf l' q t payload ↔ l = l' := by
  simp only [checksumOf, BitVec.xor_left_inj, setWidth_byte_inj (show 7 ≤ 8 by decide)]

theorem checksumOf_sequence_inj : checksumOf l q t payload = checksumOf l q' t payload ↔ q = q' := by
  simp only [checksumOf, BitVec.xor_left_inj, BitVec.xor_right_inj, setWidth_byte_inj (show 5 ≤ 8 by decide)]

theorem checksumOf_type_inj : checksumOf l q t payload = checksumOf l q t' payload ↔ t = t' := by
  simp only [checksumOf, BitVec.xor_left_inj, BitVec.xor_right_inj, setWidth_byte_inj (show 4 ≤ 8 by decide)]

/-- One replaced payload byte changes the checksum by `old ^ new`, which is 0 only for an equal byte (R118). -/
theorem checksumOf_set_eq_iff {i : Nat} (h : i < payload.length) (b : Byte) :
    checksumOf l q t payload = checksumOf l q t (payload.set i b) ↔ payload[i] = b := by
  have hnew : foldXor payload ^^^ foldXor (payload.set i b) = payload[i] ^^^ b := by
    rw [foldXor_set payload i h, BitVec.xor_assoc, ← BitVec.xor_assoc, BitVec.xor_self, BitVec.zero_xor]
  rw [checksumOf, checksumOf, BitVec.xor_right_inj, ← BitVec.xor_eq_zero_iff, hnew, BitVec.xor_eq_zero_iff]

end FieldChange

/-! ## The obligations -/

/-- Settles O6: `build` takes the low bits of each operand, which is the remainder by 32 and by 16, and the checksum of
those fields. -/
theorem buildMasksAndChecksums : Obligations.BuildMasksAndChecksums := by
  intro seq typ len payload hlen _
  have hlength : (build seq typ payload len).length.toNat = len.toNat := by
    simp only [build, BitVec.toNat_setWidth]; omega
  have hsequence : (build seq typ payload len).sequence.toNat = seq.toNat % 32 := BitVec.toNat_setWidth ..
  have htype : (build seq typ payload len).type.toNat = typ.toNat % 16 := BitVec.toNat_setWidth ..
  have hvalid := validate_build seq typ payload len
  refine ⟨hlength, hsequence, htype, rfl, ?_, hvalid⟩
  rw [(validate_eq_true_iff _).mp hvalid, toNat_checksumOf, hlength, hsequence, htype]
  rfl

/-- Settles O9: a frame that validates carries the checksum of its fields, and a change of one field, or of one payload
byte, changes that checksum. -/
theorem oneChangedFieldIsDetected : Obligations.OneChangedFieldIsDetected := by
  intro f hf
  have hck := (validate_eq_true_iff f).mp hf
  simp only [← Bool.not_eq_true, validate_eq_true_iff, hck]
  refine ⟨fun i b hi hb => ?_, fun l hl => ?_, fun q hq => ?_, fun t ht => ?_, fun ck h => h⟩
  · rw [checksumOf_set_eq_iff _ _ _ _ hi]
    rwa [List.getElem?_eq_getElem hi, ne_eq, Option.some_inj] at hb
  · rw [checksumOf_length_inj]; exact hl.symm
  · rw [checksumOf_sequence_inj]; exact hq.symm
  · rw [checksumOf_type_inj]; exact ht.symm

/-- Settles O7: BUILD does one of two things to a ready core (R113, R114), and the length operand rules out one. -/
theorem buildCommand : Obligations.BuildCommand := by
  intro seq typ len payload s _ hready
  obtain ⟨t, hexec, heffect⟩ := exec_effect (i := .build seq typ len payload) rfl hready
  refine ⟨rfl, fun hlong => ?_, fun hfits => ?_⟩ <;> rw [hexec]
  · cases heffect with
    | buildLong => rfl
    | buildOk _ _ _ _ hfits => unfold maxPayload at hfits; omega
  · cases heffect with
    | buildLong _ _ _ _ hlong => unfold maxPayload at hlong; omega
    | buildOk => rfl

/-- Settles O8: the one thing VALIDATE does to a ready core (R115), with the comparison of R112 in numbers. -/
theorem validateCommand : Obligations.ValidateCommand := by
  intro f s _ hready
  obtain ⟨t, hexec, heffect⟩ := exec_effect (i := .validate f) rfl hready
  refine ⟨rfl, ?_⟩
  cases heffect with
  | validate => rw [hexec, validate_eq_decide_toNat]

end Sys2Proof.Proofs
end

section

/-! The link transport: the datagram as `wrap` makes it and as `unwrap` reads it
(spec/41_link_transport.md rules R134 to R137 and R140). -/

namespace Sys2Proof.Proofs

open Sys2Proof.Machine

/-! ## The bytes of a datagram as numbers -/

theorem toNat_etherHi (t : BitVec 16) : (etherHi t).toNat = t.toNat / 256 := by
  rw [etherHi, BitVec.extractLsb'_toNat, Nat.shiftRight_eq_div_pow]
  omega

theorem toNat_etherLo (t : BitVec 16) : (etherLo t).toNat = t.toNat % 256 := rfl

/-- The integrity test in the numbers of R137. -/
theorem intact_iff (d : Datagram) : intact d = true ↔
    (byteAt d 15).toNat ≤ 127 ∧ (byteAt d 16).toNat ≤ 31 ∧ (byteAt d 17).toNat ≤ 15 ∧
      19 + (byteAt d 15).toNat ≤ d.length ∧
      (byteAt d 18).toNat = (byteAt d 15).toNat ^^^ (byteAt d 16).toNat ^^^ (byteAt d 17).toNat ^^^
        foldNat ((d.drop 19).take (byteAt d 15).toNat) := by
  simp only [intact, Bool.and_eq_true, decide_eq_true_iff, beq_iff_eq, and_assoc, ← BitVec.toNat_inj,
    BitVec.toNat_xor, toNat_foldXor, payloadAt]

/-- In an intact datagram no field is cut by its width (R137). -/
theorem toNat_frameOf_of_intact {d : Datagram} (h : intact d = true) :
    (frameOf d).length.toNat = (byteAt d 15).toNat ∧ (frameOf d).sequence.toNat = (byteAt d 16).toNat ∧
      (frameOf d).type.toNat = (byteAt d 17).toNat := by
  obtain ⟨hlength, hsequence, htype, -, -⟩ := (intact_iff d).mp h
  simp only [frameOf, BitVec.toNat_setWidth]
  omega

/-! ## The verdict -/

theorem unwrap_eq_of_ne_reject {c : Config} {d : Datagram} {filter : Filter} (h : unwrap c d filter ≠ .reject) :
    unwrap c d filter =
      if intact d then .accept (frameOf d) (addrAt d 6) else .mismatch (byteAt d 16) (addrAt d 6) :=
  if_neg fun hrejected => h (if_pos hrejected)

theorem filterPasses_none (dest : Addr) : filterPasses none dest = true := rfl

theorem filterPasses_some_iff (a dest : Addr) : filterPasses (some a) dest = true ↔ a = dest :=
  beq_iff_eq.trans eq_comm

/-- The verdict on what `wrap` makes, whatever follows it: only the filter and the checksum decide (R140). -/
theorem unwrap_wrap {f : Frame} (hpayload : f.payload.length = f.length.toNat) (c : Config) (dest : Addr)
    (extra : List Byte) (filter : Filter) : unwrap c (wrap c f dest ++ extra) filter =
      if filterPasses filter dest = true then
        if validate f = true then .accept f c.srcPattern else .mismatch (f.sequence.setWidth 8) c.srcPattern
      else .reject := by
  have hwf : Body.wf ⟨c.startMarker, f.length, f.sequence, f.checksum, f.payload⟩ = true := beq_iff_eq.mpr hpayload
  have hframe : Body.frame f.type ⟨c.startMarker, f.length, f.sequence, f.checksum, f.payload⟩ = f := rfl
  simp only [wrap_eq_datagramBytes, unwrap_datagramBytes hwf, hframe, true_and, and_true]

/-! ## The obligations -/

/-- Settles O13: the positions are those of the list `wrap` appends together; in numbers, the ethertype's bytes are its
quotient and remainder by 256 (R53), and widening a field to a byte keeps its value. -/
theorem wrapByteMap : Obligations.WrapByteMap := by
  intro c f dest hpayload
  have hlen : (wrap c f dest).length = 19 + f.length.toNat := by rw [wrap_length, hpayload]
  have hheader : ((wrap c f dest).drop 12).take 7 = [etherHi c.ethertype, etherLo c.ethertype, c.startMarker,
      f.length.setWidth 8, f.sequence.setWidth 8, f.type.setWidth 8, f.checksum] := rfl
  refine ⟨hlen, ?_, ?_, rfl, rfl, ?_, rfl⟩
  · unfold minDatagram; omega
  · unfold maxDatagram; omega
  · simp only [hheader, List.map_cons, List.map_nil, toNat_etherHi, toNat_etherLo,
      BitVec.toNat_setWidth_of_le (show 7 ≤ 8 by decide), BitVec.toNat_setWidth_of_le (show 5 ≤ 8 by decide),
      BitVec.toNat_setWidth_of_le (show 4 ≤ 8 by decide)]

/-- Settles O15: past the reject tests the integrity test alone decides, and it is the five conditions of R137. -/
theorem unwrapAcceptsExactlyIntact : Obligations.UnwrapAcceptsExactlyIntact := by
  intro c d filter hpasses
  rw [← intact_iff, unwrap_eq_of_ne_reject hpasses]
  by_cases hintact : intact d = true
  · obtain ⟨hwf, hvalid⟩ := frameOf_intact hintact
    obtain ⟨hlength, hsequence, htype⟩ := toNat_frameOf_of_intact hintact
    rw [if_pos hintact]
    refine ⟨iff_of_true ⟨_, _, rfl⟩ hintact, fun hnone => absurd rfl (hnone _ _), ?_⟩
    rintro _ _ ⟨⟩
    exact ⟨hwf, hvalid, rfl, hlength, hsequence, htype, rfl, rfl⟩
  · rw [if_neg hintact]
    exact ⟨iff_of_false nofun hintact, fun _ => rfl, nofun⟩

/-- Settles O16: the four verdicts of `unwrap_wrap`, under no filter and under `some a` with `a` the destination or
another address. -/
theorem roundTripOnTheLink : Obligations.RoundTripOnTheLink := by
  intro c f dest a extra hpayload
  simp only [unwrap_wrap hpayload, filterPasses_some_iff]
  refine ⟨fun hvalid => ?_, fun hvalid ha => ?_, fun ha => if_neg ha, fun hvalid => ?_⟩
  · rw [if_pos (filterPasses_none dest), if_pos hvalid]
  · rw [if_pos ha, if_pos hvalid]
  · rw [if_pos (filterPasses_none dest), if_neg (ne_true_of_eq_false hvalid)]

end Sys2Proof.Proofs
end

section

/-! The commands of the link: OPEN, CLOSE, LSEND and LRECV (spec/41_link_transport.md rules R130 to R132, R138 and
R139). -/

namespace Sys2Proof.Proofs

open Sys2Proof.Machine

/-- The cases of `Effect` for one command exclude each other, so a command has one outcome. -/
theorem effect_unique {s t t' : State} {i : Instr} (h : Effect s i t) (h' : Effect s i t') : t = t' := by
  cases h
  case openGranted | openRefused | openAgain | openFailed => cases h' <;> simp_all
  case closeOpen | closeClosed | closeFailed => cases h' <;> simp_all
  case buildLong hlen => cases h' with
    | buildLong => rfl
    | buildOk _ _ _ _ hfits => exact absurd hlen (Nat.not_lt.mpr hfits)
  case buildOk hfits => cases h' with
    | buildLong _ _ _ _ hlen => exact absurd hlen (Nat.not_lt.mpr hfits)
    | buildOk => rfl
  case lsendNoLink | lsendNoFrame | lsendOk => cases h' <;> simp_all
  case lrecvNoLink | lrecvEmpty | lrecvReject | lrecvMismatch | lrecvFrame => cases h' <;> simp_all
  case rsendNoLink | rsendNoFrame | rsendOk => cases h' <;> simp_all
  case rrecvNoLink | rrecvOk => cases h' <;> simp_all
  case validate | seqrd | seqadv => cases h'; rfl

/-- What a case of `Effect` says is what `exec` answers on a ready core. -/
theorem exec_of_effect {s t : State} {i : Instr} (hready : s.ready = true) (hcommand : i.asFrame = none)
    (h : Effect s i t) : exec i s = .next t := by
  obtain ⟨t', hexec, h'⟩ := exec_effect hcommand hready
  rw [hexec, effect_unique h h']

/-! ## The obligations -/

/-- Settles O11: the four cases of OPEN in `Effect` (R130). -/
theorem openCommand : Obligations.OpenCommand := fun _ hready =>
  ⟨rfl, fun hlink hgrant => exec_of_effect hready rfl (.openGranted hlink hgrant),
    fun hlink hgrant => exec_of_effect hready rfl (.openRefused hlink hgrant),
    fun hlink => exec_of_effect hready rfl (.openAgain hlink),
    fun hlink => exec_of_effect hready rfl (.openFailed hlink)⟩

/-- Settles O12: the three cases of CLOSE in `Effect` (R131). -/
theorem closeCommand : Obligations.CloseCommand := fun _ hready =>
  ⟨rfl, fun hlink => exec_of_effect hready rfl (.closeOpen hlink),
    fun hlink => exec_of_effect hready rfl (.closeClosed hlink),
    fun hlink => exec_of_effect hready rfl (.closeFailed hlink)⟩

/-- Settles O18: the three cases of LSEND in `Effect` (R132, R138, R223). -/
theorem lsendCommand : Obligations.LsendCommand := fun dest _ hready =>
  ⟨rfl, fun hlink => exec_of_effect hready rfl (.lsendNoLink dest hlink),
    fun hlink hframe => exec_of_effect hready rfl (.lsendNoFrame dest hlink hframe),
    fun f hlink hframe => exec_of_effect hready rfl (.lsendOk dest f hlink hframe)⟩

/-- Settles O19: the five cases of LRECV in `Effect` (R132, R139), one for each verdict on the oldest datagram. -/
theorem lrecvCommand : Obligations.LrecvCommand := fun filter _ hready =>
  ⟨rfl, fun hlink => exec_of_effect hready rfl (.lrecvNoLink filter hlink),
    fun hlink hqueue => exec_of_effect hready rfl (.lrecvEmpty filter hlink hqueue),
    fun d rest hlink hqueue =>
      ⟨fun hverdict => exec_of_effect hready rfl (.lrecvReject filter d rest hlink hqueue hverdict),
        fun q a hverdict => exec_of_effect hready rfl (.lrecvMismatch filter d rest q a hlink hqueue hverdict),
        fun f a hverdict => exec_of_effect hready rfl (.lrecvFrame filter d rest f a hlink hqueue hverdict)⟩⟩

end Sys2Proof.Proofs
end

section

/-! Reliable send: the acceptance of RSEND, and the core's turn at an elapsed deadline (spec/42_arq_send.md rules R151,
R155 and R156, spec/43_arq_receive.md rule R175). -/

namespace Sys2Proof.Proofs

open Sys2Proof.Machine

/-! ## The core's turn at `TIMER = 0`: neither of the two reads `RXQ` -/

theorem coreTurn_awaitingResponse_elapsed {s : State} (hstate : s.arqState = .awaitingResponse)
    (htimer : s.timer = 0) : coreTurn s = .next (afterAttempt s) := by
  simp only [coreTurn, hstate, if_pos htimer, sTimeout, retry_eq_afterAttempt]

theorem coreTurn_listening_elapsed {s : State} (hstate : s.arqState = .listening) (htimer : s.timer = 0) :
    coreTurn s = .next (s.endArq .failedTimeout .failed) := by
  simp only [coreTurn, hstate, if_pos htimer, rTimeout]

/-! ## The obligations -/

/-- Settles O23: the three cases of RSEND in `Effect` (R132, R151, R223). -/
theorem rsendAcceptance : Obligations.RsendAcceptance := fun dest filter _ hready =>
  ⟨rfl, fun hlink => exec_of_effect hready rfl (.rsendNoLink dest filter hlink),
    fun hlink hframe => exec_of_effect hready rfl (.rsendNoFrame dest filter hlink hframe),
    fun f hlink hframe => exec_of_effect hready rfl (.rsendOk dest filter f hlink hframe)⟩

/-- Settles O26: the scheduled turn is the core's, and at `TIMER = 0` that is the timeout step of the state it is in
(R155, R175). -/
theorem timeoutSteps : Obligations.TimeoutSteps := by
  intro s later hturns htimer
  rw [step_cons hturns, turnStep]
  exact ⟨fun hstate => coreTurn_awaitingResponse_elapsed hstate htimer,
    fun hstate => coreTurn_listening_elapsed hstate htimer⟩

end Sys2Proof.Proofs
end

section

/-! Reliable receive: the acceptance of RRECV (spec/43_arq_receive.md rule R170). -/

namespace Sys2Proof.Proofs

open Sys2Proof.Machine

/-- Settles O30: the two cases of RRECV in `Effect` (R132, R170). -/
theorem rrecvAcceptance : Obligations.RrecvAcceptance := fun filter _ hready =>
  ⟨rfl, fun hlink => exec_of_effect hready rfl (.rrecvNoLink filter hlink),
    fun hlink => exec_of_effect hready rfl (.rrecvOk filter hlink)⟩

end Sys2Proof.Proofs
end

section

/-! The sequence number tracker: SEQRD and SEQADV (spec/44_sequence_tracker.md rules R190 and R191). -/

namespace Sys2Proof.Proofs

open Sys2Proof.Machine

/-- The one addition of the tracker in numbers: the carry out of bit 4 is dropped (R191). -/
theorem toNat_seq_add_one (q : BitVec 5) : (q + 1).toNat = (q.toNat + 1) % 32 := BitVec.toNat_add q 1

/-! ## The obligations -/

/-- Settles O20: the one thing SEQRD does to a ready core in `Effect` (R190). -/
theorem seqrdCommand : Obligations.SeqrdCommand := fun _ hready =>
  ⟨rfl, exec_of_effect hready rfl .seqrd⟩

/-- Settles O21: the one thing SEQADV does to a ready core in `Effect`, with the sum of R191 in numbers. -/
theorem seqadvCommand : Obligations.SeqadvCommand := fun s hready =>
  ⟨rfl, s.seq + 1, toNat_seq_add_one s.seq, exec_of_effect hready rfl .seqadv⟩

end Sys2Proof.Proofs
end

section

/-! The reset input (spec/70_reset_and_hazards.md rules R260 and R261). -/

namespace Sys2Proof.Proofs

open Sys2Proof.Machine

/-- A scheduled reset needs nothing of the state it meets: it is one step, and only its own turn leaves the schedule. -/
theorem step_reset {s : State} {later : List Turn} (hturns : s.turns = .reset :: later) :
    step s = .next (State.resetCore { s with turns := later }) := by
  rw [step_cons hturns, turnStep]

/-! ## The obligations -/

/-- Settles O39: the step is `resetCore`, and the law of each register gives its value after it (R260), or that it is
kept (R261). -/
theorem resetFromAnyState : Obligations.ResetFromAnyState := by
  intro s later hturns
  refine ⟨_, step_reset hturns, ?_⟩
  simp only [resetCore_linkState, resetCore_seq, resetCore_txf, resetCore_filter, resetCore_arqState,
    resetCore_attempts, resetCore_timer, resetCore_rxf, resetCore_peer, resetCore_result, resetCore_rxq,
    resetCore_config, resetCore_txlog, and_self]

end Sys2Proof.Proofs
end

section

/-! The invariant of the whole machine: what a command, a turn and a step do to a legal state
(spec/10_state.md rules R20 to R37, spec/42_arq_send.md rule R156, spec/60_exceptions.md). -/

namespace Sys2Proof.Proofs

open Sys2Proof.Machine

variable {s t : State}

/-- Settles O45: after reset the core is idle, its buffers and its queue are empty and nothing has been emitted. -/
theorem resetIsLegal : Obligations.ResetIsLegal where
  attempts_range := by decide
  timer_range := by decide
  queue_open := nofun
  queue_depth := nofun
  busy_open := nofun
  busy_result := nofun
  sending_frame := nofun
  txf_sound := nofun
  rxf_sound := nofun
  rxf_peer := rfl
  txlog_sound := nofun

theorem not_busy_of_ready (hready : s.ready = true) : s.busy ≠ true := by
  rw [State.ready, Bool.not_eq_true'] at hready
  exact ne_true_of_eq_false hready

theorem not_sending_of_ready (hready : s.ready = true) :
    ¬(s.arqState = .sending ∨ s.arqState = .awaitingResponse) := fun hsending =>
  not_busy_of_ready hready (busy_iff.mpr (hsending.imp_right .inl))

/-- The deadline of one attempt fits `TIMER` (R26). -/
theorem toNat_timeout : (BitVec.ofNat 11 timeoutMs).toNat = timeoutMs := rfl

/-! ## What each change of the registers asks for -/

/-- The invariant reads nothing of what the environment still brings. -/
theorem legal_environment (hlegal : s.Legal) (g : Bool) (commands : List (List Byte)) (turns : List Turn) :
    State.Legal { s with grant := g, commands := commands, turns := turns } := { hlegal with }

/-- A command that ends at once may leave any `RESULT` (R31 bounds it only while the core is busy). -/
theorem legal_result (hlegal : s.Legal) (hready : s.ready = true) (r : Result) :
    State.Legal { s with result := r } :=
  { hlegal with busy_result := fun hbusy => absurd hbusy (not_busy_of_ready hready) }

/-- A handle that is opened, closed or lost leaves nothing in the queue (R130, R131). -/
theorem legal_handle (hlegal : s.Legal) (hready : s.ready = true) (l : LinkState) :
    State.Legal { s with linkState := l, rxq := [] } :=
  { hlegal with
    queue_open := fun hqueue => absurd rfl hqueue
    queue_depth := fun _ _ => Nat.zero_le _
    busy_open := fun hbusy => absurd hbusy (not_busy_of_ready hready) }

/-- The oldest datagram may be taken from the queue. -/
theorem legal_pop (hlegal : s.Legal) {d : Datagram} {rest : List Datagram} (hqueue : s.rxq = d :: rest) :
    State.Legal { s with rxq := rest } :=
  { hlegal with
    queue_open := fun _ => hlegal.queue_open (hqueue ▸ List.cons_ne_nil d rest)
    queue_depth := fun n hn => by
      have hdepth := hlegal.queue_depth n hn
      rw [hqueue, List.length_cons] at hdepth
      exact Nat.le_of_succ_le hdepth }

/-- A sound frame may be emitted to any destination (R56). -/
theorem legal_emit (hlegal : s.Legal) {f : Frame} (hsound : soundFrame f = true) (dest : Addr) :
    State.Legal { s with txlog := s.txlog ++ [wrap s.config f dest] } :=
  { hlegal with
    txlog_sound := fun d hd => by
      rcases List.mem_append.mp hd with hold | hnew
      · exact hlegal.txlog_sound d hold
      · exact ⟨f, dest, hsound, List.mem_singleton.mp hnew⟩ }

/-- A sound frame may be delivered with its sender (R24). -/
theorem legal_receive (hlegal : s.Legal) {f : Frame} (hsound : soundFrame f = true) (a : Addr) :
    State.Legal { s with rxf := some f, peer := some a } :=
  { hlegal with
    rxf_sound := fun _ hf => Option.some.inj hf ▸ hsound
    rxf_peer := rfl }

/-- A running command may end in any result (R235). -/
theorem legal_end (hlegal : s.Legal) {a : ArqState} (hend : a = .succeeded ∨ a = .failed) (r : Result) :
    State.Legal { s with result := r, arqState := a } :=
  have hready : State.ready { s with result := r, arqState := a } = true := ready_iff.mpr (.inr hend)
  { hlegal with
    busy_open := fun hbusy => absurd hbusy (not_busy_of_ready hready)
    busy_result := fun hbusy => absurd hbusy (not_busy_of_ready hready)
    sending_frame := fun hsending => absurd hsending (not_sending_of_ready hready) }

/-- An attempt that is over with another one left goes back to `Sending` (R156). -/
theorem legal_again (hlegal : s.Legal) (hstate : s.arqState = .awaitingResponse)
    (hleft : s.attempts.toNat + 1 < maxAttempts) :
    State.Legal { s with attempts := s.attempts + 1, arqState := .sending } :=
  have hbusy : s.busy = true := busy_iff.mpr (.inr (.inl hstate))
  have hattempts : (s.attempts + 1).toNat = s.attempts.toNat + 1 := attempts_succ (Nat.lt_of_succ_lt hleft)
  { hlegal with
    attempts_range := hattempts ▸ hleft.le
    busy_open := fun _ => hlegal.busy_open hbusy
    busy_result := fun _ => hlegal.busy_result hbusy
    sending_frame := fun _ => ⟨(hlegal.sending_frame (.inr hstate)).1, hattempts ▸ hleft⟩ }

/-- An attempt that is over with none left ends RSEND (R156). -/
theorem legal_giveUp (hlegal : s.Legal) (hstate : s.arqState = .awaitingResponse) :
    State.Legal { s with attempts := s.attempts + 1, arqState := .failed, result := .failedNoAck } :=
  have hleft := (hlegal.sending_frame (.inr hstate)).2
  { legal_end hlegal (.inr rfl) .failedNoAck with
    attempts_range := (attempts_succ hleft).symm ▸ hleft
    sending_frame := nofun }

/-! ## Commands -/

/-- Every case of a command on a ready core keeps the invariant. -/
theorem legal_effect (hlegal : s.Legal) (hready : s.ready = true) {i : Instr} (hwf : i.wf = true)
    (h : Effect s i t) : t.Legal := by
  cases h with
  | openGranted | openRefused | closeOpen => exact legal_result (legal_handle hlegal hready _) hready _
  | buildOk seq typ _ _ hfits =>
    have hsound := soundFrame_build (seq := seq) (typ := typ) hfits (beq_iff_eq.mp hwf)
    exact
      { legal_result hlegal hready .ok with
        txf_sound := fun _ hf => Option.some.inj hf ▸ hsound
        sending_frame := fun hsending => absurd hsending (not_sending_of_ready hready) }
  | lsendOk dest f _ hframe => exact legal_result (legal_emit hlegal (hlegal.txf_sound f hframe) dest) hready _
  | lrecvReject _ _ _ _ hqueue | lrecvMismatch _ _ _ _ _ _ hqueue =>
    exact legal_result (legal_pop hlegal hqueue) hready _
  | lrecvFrame _ _ _ _ _ _ hqueue hverdict =>
    exact legal_result (legal_receive (legal_pop hlegal hqueue) (soundFrame_accept hverdict) _) hready _
  | rsendOk _ _ f hlink hframe =>
    exact
      { hlegal with
        attempts_range := Nat.zero_le _
        busy_open := fun _ => hlink
        busy_result := fun _ => rfl
        sending_frame := fun _ => ⟨Option.isSome_of_eq_some hframe, Nat.zero_lt_succ _⟩ }
  | rrecvOk _ hlink =>
    exact
      { hlegal with
        timer_range := toNat_timeout.le
        busy_open := fun _ => hlink
        busy_result := fun _ => rfl
        sending_frame := nofun }
  | seqadv => exact { legal_result hlegal hready .ok with }
  | _ => exact legal_result hlegal hready _

/-! ## Turns and steps -/

/-- Every turn of every agent keeps the invariant. -/
theorem legal_move (hlegal : s.Legal) {turn : Turn} (h : Move s turn t) : t.Legal := by
  cases h with
  | transmit f hstate hframe =>
    have hbusy : s.busy = true := busy_iff.mpr (.inl hstate)
    exact
      { legal_emit hlegal (hlegal.txf_sound f hframe) s.txdest with
        timer_range := toNat_timeout.le
        busy_open := fun _ => hlegal.busy_open hbusy
        busy_result := fun _ => hlegal.busy_result hbusy
        sending_frame := fun _ => hlegal.sending_frame (.inl hstate) }
  | sAck _ _ _ _ _ _ _ _ hqueue => exact legal_end (legal_pop hlegal hqueue) (.inl rfl) _
  | sNackAgain _ _ _ _ _ hstate _ _ hqueue _ _ _ hleft => exact legal_again (legal_pop hlegal hqueue) hstate hleft
  | sNackFails _ _ _ _ _ hstate _ _ hqueue => exact legal_giveUp (legal_pop hlegal hqueue) hstate
  | sOther _ _ _ _ _ _ hqueue | rReject _ _ _ _ hqueue => exact legal_pop hlegal hqueue
  | sTimeoutAgain hstate _ hleft => exact legal_again hlegal hstate hleft
  | sTimeoutFails hstate => exact legal_giveUp hlegal hstate
  | rAccept _ _ f a _ _ hqueue hverdict =>
    have hsent := legal_emit (legal_pop hlegal hqueue) (soundFrame_ackFrame f.sequence) a
    exact legal_end (legal_receive hsent (soundFrame_accept hverdict) a) (.inl rfl) _
  | rMismatch _ _ q a _ _ hqueue => exact legal_emit (legal_pop hlegal hqueue) (soundFrame_nackFrame _) a
  | rTimeout => exact legal_end hlegal (.inr rfl) _
  | hostCommand _ later _ _ hready _ _ _ hwf heffect =>
    exact legal_effect (legal_environment hlegal _ later _) hready hwf heffect
  | linkAppend d hlink hroom =>
    exact
      { hlegal with
        queue_open := fun _ => hlink
        queue_depth := fun n hn => (List.length_append ..).trans_le (hasRoom_iff.mp hroom n hn) }
  | tickDown hpolling =>
    have htimer := timer_pred (polling_iff.mp hpolling).2
    exact { hlegal with timer_range := (Nat.le_of_lt (Nat.lt_of_succ_le htimer.le)).trans hlegal.timer_range }
  | reset => exact { resetIsLegal with queue_depth := fun _ _ => Nat.zero_le _, txlog_sound := hlegal.txlog_sound }
  | grant | hostUnspelled => exact legal_environment hlegal _ _ _
  | coreReady | pollEmpty | hostBusy | hostEmpty | linkLost | tickIdle => exact hlegal

/-- Taking the next turn from the schedule changes nothing the invariant reads. -/
theorem legal_nextTurn (hlegal : s.Legal) : (nextTurn s).2.Legal := by
  unfold nextTurn
  split
  · exact hlegal
  · exact legal_environment hlegal _ _ _

/-! ## The obligations -/

/-- Settles O44: a step is the move of the agent whose turn it is, from the state that has lost that turn. -/
theorem stepKeepsLegal : Obligations.StepKeepsLegal := fun _ _ hlegal hstep =>
  legal_move (legal_nextTurn hlegal) (move_of_turnStep hstep)

/-- Settles O46: the only turns without an answer want a frame that `TXF` lacks, and a running RSEND has its frame. -/
theorem legalStepAnswersNext : Obligations.LegalStepAnswersNext := by
  intro s hlegal
  have hnext := legal_nextTurn hlegal
  obtain ⟨t, hstep, -⟩ := turnStep_move (nextTurn s).1 (nextTurn s).2 fun _ hsending =>
    Option.isSome_iff_ne_none.mp (hnext.sending_frame (hsending.imp_right And.left)).1
  exact ⟨t, hstep⟩

end Sys2Proof.Proofs
end

section

/-! Decoding and encoding: what the decoders read from an encoding, and the bytes from which they read an instruction
(spec/30_encoding.md). -/

namespace Sys2Proof.Proofs

open Sys2Proof.Machine

/-! ## Decoding an encoding -/

/-- The command decoder on a command's own bytes, whatever follows them (R93). -/
theorem decodeCommand_encode {i : Instr} (hcommand : i.asFrame = none) (hwf : i.wf = true) (rest : List Byte) :
    decodeCommand (encode i ++ rest) = .ok (i, rest) := by
  cases i with
  | openHandle | closeHandle | seqrd | seqadv | lsend => rfl
  | build seq typ len payload =>
    have hpayload := takeBytes_append (beq_iff_eq.mp hwf) rest
    show takeBuild (seq :: typ :: len :: (payload ++ rest)) = _
    simp only [takeBuild, hpayload]
  | validate f =>
    have hlength : f.payload.length = (f.length.setWidth 8).toNat :=
      (beq_iff_eq.mp hwf).trans (BitVec.toNat_setWidth_of_le (by decide)).symm
    show takeValidate (f.length.setWidth 8 :: f.sequence.setWidth 8 :: f.type.setWidth 8 :: f.checksum ::
      (f.payload ++ rest)) = _
    simp only [takeValidate, headerInRange_setWidth, if_true, takeBytes_append hlength,
      setWidth_widen (show 7 ≤ 8 by decide), setWidth_widen (show 5 ≤ 8 by decide),
      setWidth_widen (show 4 ≤ 8 by decide)]
  | lrecv filter =>
    show takeLrecv (filterBytes filter ++ rest) = _
    simp only [takeLrecv, takeFilter_filterBytes]
  | rrecv filter =>
    show takeRrecv (filterBytes filter ++ rest) = _
    simp only [takeRrecv, takeFilter_filterBytes]
  | rsend dest filter =>
    show takeRsend (addrBytes dest ++ filterBytes filter ++ rest) = _
    simp only [takeRsend, List.append_assoc, takeAddr_addrBytes, takeFilter_filterBytes]
  | _ => cases hcommand

theorem port_of_command {i : Instr} (h : i.asFrame = none) : i.port = .command := by simp [Instr.port, h]

theorem port_of_frame {i : Instr} {t : BitVec 4} {e : Envelope} {b : Body} (h : i.asFrame = some (t, e, b)) :
    i.port = .receive := by simp [Instr.port, h]

/-- Settles O2: a frame is the row its tag selects and its datagram decodes to that row; a command is decoded by its
code byte and its operand readers. -/
theorem decodeEncodeEveryInstruction : Obligations.DecodeEncodeEveryInstruction := by
  intro i rest hwf
  cases hframe : i.asFrame with
  | none => rw [port_of_command hframe]; exact decodeCommand_encode hframe hwf rest
  | some frame =>
    obtain ⟨t, e, b⟩ := frame
    rw [port_of_frame hframe]
    obtain rfl := asFrame_some hframe
    rw [encode_frameInstr]
    exact decodeDatagram_datagramBytes ((frameInstr_wf t e b).symm.trans hwf) t e rest

/-! ## The bytes a command is read from -/

/-- A filter operand as it may stand on the port: of an absent filter the six address bytes are `unused`, whatever they
are (R93). -/
def filterWire (unused : Addr) : Filter → List Byte
  | none => 0 :: addrBytes unused
  | some a => filterBytes (some a)

/-- A command as it may stand on the port: its encoding, but for the six bytes of an absent filter (R93). -/
def commandWire (unused : Addr) : Instr → List Byte
  | .lrecv filter => 0x21 :: filterWire unused filter
  | .rsend dest filter => 0x30 :: (addrBytes dest ++ filterWire unused filter)
  | .rrecv filter => 0x31 :: filterWire unused filter
  | i => encode i

theorem takeFilter_wire {bs rest : List Byte} {filter : Filter} (h : takeFilter bs = .ok (filter, rest)) :
    ∃ unused, filterWire unused filter ++ rest = bs := by
  obtain ⟨hpresent, habsent⟩ := takeFilter_ok h
  cases filter with
  | none => exact habsent rfl
  | some a => exact ⟨a, hpresent nofun⟩

section Readers

variable {bs rest : List Byte} {i : Instr}

theorem takeBuild_wire (h : takeBuild bs = .ok (i, rest)) : ∃ unused, commandWire unused i ++ rest = 0x10 :: bs := by
  unfold takeBuild at h
  split at h
  · split at h
    · cases h
    · rename_i hpayload
      cases h
      rw [← (takeBytes_some hpayload).2]
      exact ⟨⟨0, 0, 0, 0, 0, 0⟩, rfl⟩
  · cases h

theorem takeValidate_wire (h : takeValidate bs = .ok (i, rest)) :
    ∃ unused, commandWire unused i ++ rest = 0x11 :: bs := by
  unfold takeValidate at h
  split at h
  · split at h
    · rename_i l q t ck rest' hrange
      split at h
      · cases h
      · rename_i payload rest hpayload
        cases h
        simp only [headerInRange, Bool.and_eq_true, decide_eq_true_iff] at hrange
        rw [← (takeBytes_some hpayload).2]
        refine ⟨⟨0, 0, 0, 0, 0, 0⟩, ?_⟩
        simp only [commandWire, encode, setWidth_narrow (show l.toNat < 2 ^ 7 by omega),
          setWidth_narrow (show q.toNat < 2 ^ 5 by omega), setWidth_narrow (show t.toNat < 2 ^ 4 by omega)]
        rfl
    · cases h
  · cases h

theorem takeLsend_wire (h : takeLsend bs = .ok (i, rest)) : ∃ unused, commandWire unused i ++ rest = 0x20 :: bs := by
  unfold takeLsend at h
  split at h
  · cases h
  · rename_i a _ haddr
    cases h
    exact ⟨a, congrArg (0x20 :: ·) (takeAddr_some haddr)⟩

theorem takeLrecv_wire (h : takeLrecv bs = .ok (i, rest)) : ∃ unused, commandWire unused i ++ rest = 0x21 :: bs := by
  unfold takeLrecv at h
  split at h
  · cases h
  · rename_i hfilter
    cases h
    obtain ⟨unused, hwire⟩ := takeFilter_wire hfilter
    exact ⟨unused, congrArg (0x21 :: ·) hwire⟩

theorem takeRsend_wire (h : takeRsend bs = .ok (i, rest)) : ∃ unused, commandWire unused i ++ rest = 0x30 :: bs := by
  unfold takeRsend at h
  split at h
  · cases h
  · rename_i haddr
    split at h
    · cases h
    · rename_i hfilter
      cases h
      obtain ⟨unused, hwire⟩ := takeFilter_wire hfilter
      rw [← takeAddr_some haddr, ← hwire]
      exact ⟨unused, by simp only [commandWire, List.cons_append, List.append_assoc]⟩

theorem takeRrecv_wire (h : takeRrecv bs = .ok (i, rest)) : ∃ unused, commandWire unused i ++ rest = 0x31 :: bs := by
  unfold takeRrecv at h
  split at h
  · cases h
  · rename_i hfilter
    cases h
    obtain ⟨unused, hwire⟩ := takeFilter_wire hfilter
    exact ⟨unused, congrArg (0x31 :: ·) hwire⟩

/-- The code byte says which reader read the operands (R93). -/
theorem decodeCommand_wire (h : decodeCommand bs = .ok (i, rest)) : ∃ unused, commandWire unused i ++ rest = bs := by
  cases bs with
  | nil => cases h
  | cons code operands =>
    rw [decodeCommand] at h
    obtain rfl | hcode := eq_or_ne code 0x01
    · cases h; exact ⟨⟨0, 0, 0, 0, 0, 0⟩, rfl⟩
    rw [if_neg hcode] at h
    obtain rfl | hcode := eq_or_ne code 0x02
    · cases h; exact ⟨⟨0, 0, 0, 0, 0, 0⟩, rfl⟩
    rw [if_neg hcode] at h
    obtain rfl | hcode := eq_or_ne code 0x10
    · exact takeBuild_wire h
    rw [if_neg hcode] at h
    obtain rfl | hcode := eq_or_ne code 0x11
    · exact takeValidate_wire h
    rw [if_neg hcode] at h
    obtain rfl | hcode := eq_or_ne code 0x20
    · exact takeLsend_wire h
    rw [if_neg hcode] at h
    obtain rfl | hcode := eq_or_ne code 0x21
    · exact takeLrecv_wire h
    rw [if_neg hcode] at h
    obtain rfl | hcode := eq_or_ne code 0x30
    · exact takeRsend_wire h
    rw [if_neg hcode] at h
    obtain rfl | hcode := eq_or_ne code 0x31
    · exact takeRrecv_wire h
    rw [if_neg hcode] at h
    obtain rfl | hcode := eq_or_ne code 0x40
    · cases h; exact ⟨⟨0, 0, 0, 0, 0, 0⟩, rfl⟩
    rw [if_neg hcode] at h
    obtain rfl | hcode := eq_or_ne code 0x41
    · cases h; exact ⟨⟨0, 0, 0, 0, 0, 0⟩, rfl⟩
    rw [if_neg hcode] at h
    cases h

end Readers

/-- Where no filter is absent, nothing on the port is free. -/
theorem commandWire_of_present {i : Instr} (unused : Addr)
    (h : i ≠ .lrecv none ∧ i ≠ .rrecv none ∧ ∀ dest, i ≠ .rsend dest none) : commandWire unused i = encode i := by
  obtain ⟨hlrecv, hrrecv, hrsend⟩ := h
  cases i with
  | lrecv filter => cases filter <;> [exact absurd rfl hlrecv; rfl]
  | rrecv filter => cases filter <;> [exact absurd rfl hrrecv; rfl]
  | rsend dest filter => cases filter <;> [exact absurd rfl (hrsend dest); rfl]
  | _ => rfl

/-- Where a filter is absent, the last six bytes are the unused ones. -/
theorem commandWire_of_absent {i : Instr} (unused : Addr)
    (h : i = .lrecv none ∨ i = .rrecv none ∨ ∃ dest, i = .rsend dest none) :
    commandWire unused i = (encode i).take ((encode i).length - 6) ++ addrBytes unused := by
  rcases h with rfl | rfl | ⟨dest, rfl⟩ <;> rfl

/-- Settles O3: the bytes of a datagram that decodes are its instruction's datagram; those of a command that decodes are
what may stand on the port for it. -/
theorem decodedBytesAreTheEncoding : Obligations.DecodedBytesAreTheEncoding := by
  intro p bytes rest i hdecode
  cases p with
  | command =>
    obtain ⟨hwf, hcommand, consumed, hlength, rfl, -⟩ := decodeCommand_prefix hdecode
    obtain ⟨unused, hwire⟩ := decodeCommand_wire hdecode
    refine ⟨hwf, port_of_command hcommand, ?_, fun hpresent => ?_, fun habsent => ⟨unused, ?_⟩⟩
    · rw [List.length_append, hlength]
    · rw [← commandWire_of_present unused hpresent, hwire]
    · rw [← commandWire_of_absent unused habsent, hwire]
  | receive =>
    obtain ⟨t, e, b, rfl, hwf, rfl⟩ := decodeDatagram_ok hdecode
    have hframe := frameInstr_asFrame t e b
    rw [encode_frameInstr, frameInstr_wf]
    refine ⟨hwf, port_of_frame hframe, List.length_append.symm, fun _ => rfl, fun habsent => ?_⟩
    rcases habsent with habsent | habsent | ⟨dest, habsent⟩ <;> rw [habsent] at hframe <;> cases hframe

/-- Settles O1: the decoders run on the bytes. -/
theorem writtenWordsDecode : Obligations.WrittenWordsDecode :=
  ⟨rfl, rfl, rfl, rfl, rfl, rfl, rfl, rfl, rfl, rfl, rfl, rfl⟩

end Sys2Proof.Proofs
end

section

/-! The frame rows of the opcode table: the mask of spec/30_encoding.md rule R96 on a 40-bit header, and the row it
chooses. -/

namespace Sys2Proof.Proofs

open Sys2Proof.Machine

/-! ## The mask in numbers -/

section Mask

variable {w m n k : Nat}

theorem and_div_mod_of_zeros (h : m / 2 ^ n % 2 ^ k = 0) : (w &&& m) / 2 ^ n % 2 ^ k = 0 := by
  rw [Nat.and_div_two_pow, Nat.and_mod_two_pow, h, Nat.and_zero]

theorem and_div_mod_of_ones (h : m / 2 ^ n % 2 ^ k = 2 ^ k - 1) : (w &&& m) / 2 ^ n % 2 ^ k = w / 2 ^ n % 2 ^ k := by
  rw [Nat.and_div_two_pow, Nat.and_mod_two_pow, h, Nat.and_two_pow_sub_one_eq_mod, Nat.mod_mod]

end Mask

/-- What the table's mask keeps of a header: bit 31, the reserved bit of the length byte; bits 23 to 21, those of the
sequence byte; and the type byte (R81, R96). -/
theorem and_frameMask {w : Nat} (hw : w < 2 ^ 40) :
    w &&& 0x0080E0FF00 = w / 2 ^ 31 % 2 * 2 ^ 31 + w / 2 ^ 21 % 8 * 2 ^ 21 + w / 2 ^ 8 % 256 * 2 ^ 8 := by
  have hchecksum : (w &&& 0x0080E0FF00) / 2 ^ 0 % 2 ^ 8 = 0 := and_div_mod_of_zeros rfl
  have htype : (w &&& 0x0080E0FF00) / 2 ^ 8 % 2 ^ 8 = w / 2 ^ 8 % 2 ^ 8 := and_div_mod_of_ones rfl
  have hsequence : (w &&& 0x0080E0FF00) / 2 ^ 16 % 2 ^ 5 = 0 := and_div_mod_of_zeros rfl
  have hreserved : (w &&& 0x0080E0FF00) / 2 ^ 21 % 2 ^ 3 = w / 2 ^ 21 % 2 ^ 3 := and_div_mod_of_ones rfl
  have hlength : (w &&& 0x0080E0FF00) / 2 ^ 24 % 2 ^ 7 = 0 := and_div_mod_of_zeros rfl
  have hreserved' : (w &&& 0x0080E0FF00) / 2 ^ 31 % 2 ^ 1 = w / 2 ^ 31 % 2 ^ 1 := and_div_mod_of_ones rfl
  have hmarker : (w &&& 0x0080E0FF00) / 2 ^ 32 % 2 ^ 8 = 0 := and_div_mod_of_zeros rfl
  have hle : w &&& 0x0080E0FF00 ≤ w := Nat.and_le_left
  omega

/-! ## The row of a header -/

/-- The envelope of zeros a header stands in (log entry 9). -/
def zeroEnvelope : Envelope := ⟨⟨0, 0, 0, 0, 0, 0⟩, ⟨0, 0, 0, 0, 0, 0⟩, 0⟩

/-- The five bytes of a header, byte 0 most significant, and the zeros that follow them. -/
def headerFrame (w : Nat) : List Byte :=
  BitVec.ofNat 8 (w / 256 / 256 / 256 / 256) :: BitVec.ofNat 8 (w / 256 / 256 / 256) ::
    BitVec.ofNat 8 (w / 256 / 256) :: BitVec.ofNat 8 (w / 256) :: BitVec.ofNat 8 w ::
    List.replicate (w / 2 ^ 24 % 128) 0

/-- A 40-bit row is read as the frame its five bytes begin. -/
theorem decodeTableWord_header (w : Nat) :
    decodeTableWord 40 w = (takeFrame zeroEnvelope (headerFrame w)).toOption.map Prod.fst := by
  have hdecode : decode (tablePort 40) (tableBytes 40 w) = takeFrame zeroEnvelope (headerFrame w) := rfl
  rw [decodeTableWord, hdecode]
  rcases takeFrame zeroEnvelope (headerFrame w) with _ | ⟨i, rest⟩ <;> rfl

/-- A header that is in range is the row of its type, with as many zeros for its payload as its length says. -/
theorem takeFrame_zeros (e : Envelope) {marker l q t : Byte} (ck : Byte) (h : headerInRange l q t = true) :
    takeFrame e (marker :: l :: q :: t :: ck :: List.replicate l.toNat 0) =
      .ok (frameInstr (t.setWidth 4) e ⟨marker, l.setWidth 7, q.setWidth 5, ck, List.replicate l.toNat 0⟩, []) := by
  have hpayload := takeBytes_append (List.length_replicate (n := l.toNat) (a := (0 : Byte))) []
  rw [List.append_nil] at hpayload
  simp only [takeFrame, h, if_true, hpayload]

theorem takeFrame_outOfRange (e : Envelope) {marker l q t ck : Byte} {rest : List Byte}
    (h : headerInRange l q t = false) : takeFrame e (marker :: l :: q :: t :: ck :: rest) = .error .reservedBits := by
  simp only [takeFrame, h, Bool.false_eq_true, if_false]

theorem headerInRange_iff (l q t : Byte) :
    headerInRange l q t = true ↔ l.toNat ≤ 127 ∧ q.toNat ≤ 31 ∧ t.toNat ≤ 15 := by
  simp only [headerInRange, Bool.and_eq_true, decide_eq_true_iff, and_assoc]

/-- Settles O4: the mask takes a header to a tag exactly when its length, sequence and type bytes are in range. -/
theorem frameRowsAreChosenByTheMask : Obligations.FrameRowsAreChosenByTheMask := by
  intro w hw
  rw [and_frameMask hw, decodeTableWord_header, headerFrame]
  generalize hm : BitVec.ofNat 8 (w / 256 / 256 / 256 / 256) = m
  generalize hl : BitVec.ofNat 8 (w / 256 / 256 / 256) = l
  generalize hq : BitVec.ofNat 8 (w / 256 / 256) = q
  generalize ht : BitVec.ofNat 8 (w / 256) = y
  replace hm : m.toNat = w / 2 ^ 32 := by rw [← hm, BitVec.toNat_ofNat]; omega
  replace hl : l.toNat = w / 2 ^ 24 % 256 := by rw [← hl, BitVec.toNat_ofNat]; omega
  replace hq : q.toNat = w / 2 ^ 16 % 256 := by rw [← hq, BitVec.toNat_ofNat]; omega
  replace ht : y.toNat = w / 2 ^ 8 % 256 := by rw [← ht, BitVec.toNat_ofNat]; rfl
  have hrange := headerInRange_iff l q y
  rw [hl, hq, ht] at hrange
  constructor
  · intro t htag hmask
    obtain ⟨hl7, hq5, ht4⟩ : w / 2 ^ 24 % 256 ≤ 127 ∧ w / 2 ^ 16 % 256 ≤ 31 ∧ w / 2 ^ 8 % 256 = t := by omega
    clear hmask
    have hin := hrange.mpr ⟨hl7, hq5, by omega⟩
    have hpadding : w / 2 ^ 24 % 128 = l.toNat := by rw [hl]; omega
    have htype : y.setWidth 4 = BitVec.ofNat 4 t := BitVec.eq_of_toNat_eq (by
      rw [BitVec.toNat_setWidth, BitVec.toNat_ofNat, ht, ht4])
    rw [hpadding, takeFrame_zeros _ _ hin, htype]
    refine ⟨_, _, _, rfl, frameInstr_asFrame _ _ _, hm, ?_, ?_, BitVec.toNat_ofNat ..⟩
    · rw [BitVec.toNat_setWidth]; omega
    · rw [BitVec.toNat_setWidth]; omega
  · intro hmask
    have hout : headerInRange l q y = false := by
      rw [← Bool.not_eq_true, hrange]
      intro hin
      exact hmask (w / 2 ^ 8 % 256) (by omega) (by omega)
    rw [takeFrame_outOfRange _ hout]
    rfl

end Sys2Proof.Proofs
end

section

/-! Frames presented to the core, and the poll steps that take them (spec/42_arq_send.md rules R152 to R160,
spec/43_arq_receive.md rules R172 to R179, spec/60_exceptions.md rule R232). -/

namespace Sys2Proof.Proofs

open Sys2Proof.Machine

variable {s : State}

/-! ## The core's turn -/

theorem polling_awaiting (hstate : s.arqState = .awaitingResponse) (htimer : s.timer ≠ 0) : s.polling = true :=
  polling_iff.mpr ⟨.inl hstate, htimer⟩

theorem polling_listening (hstate : s.arqState = .listening) (htimer : s.timer ≠ 0) : s.polling = true :=
  polling_iff.mpr ⟨.inr hstate, htimer⟩

theorem coreTurn_transmit {f : Frame} (hstate : s.arqState = .sending) (hframe : s.txf = some f) :
    coreTurn s = .next { s with
      txlog := s.txlog ++ [wrap s.config f s.txdest], timer := BitVec.ofNat 11 timeoutMs,
      arqState := .awaitingResponse } := by
  simp only [coreTurn, hstate, sTransmit, hframe, State.emit]

/-- A polling core with nothing in its queue has no step (log entry 3). -/
theorem coreTurn_poll_empty (hpolling : s.polling = true) (hqueue : s.rxq = []) : coreTurn s = .next s := by
  rw [coreTurn_polling hpolling]
  simp only [pollTurn, hqueue]

/-- The poll step of RSEND: the response it takes is the verdict on the oldest datagram (R153). -/
theorem coreTurn_poll_awaiting {f : Frame} {d : Datagram} {rest : List Datagram}
    (hstate : s.arqState = .awaitingResponse) (htimer : s.timer ≠ 0) (hframe : s.txf = some f)
    (hqueue : s.rxq = d :: rest) :
    coreTurn s = .next (takeResponse (unwrap s.config d s.filter) f { s with rxq := rest }) := by
  have hpolling := polling_awaiting hstate htimer
  rw [coreTurn_polling hpolling, pollTurn_cons hpolling hqueue]
  exact pollDatagram_awaiting (s := { s with rxq := rest }) hstate hframe d

/-- The poll step of RRECV (R172). -/
theorem coreTurn_poll_listening {d : Datagram} {rest : List Datagram} (hstate : s.arqState = .listening)
    (htimer : s.timer ≠ 0) (hqueue : s.rxq = d :: rest) :
    coreTurn s = .next (takeRequest (unwrap s.config d s.filter) { s with rxq := rest }) := by
  have hpolling := polling_listening hstate htimer
  rw [coreTurn_polling hpolling, pollTurn_cons hpolling hqueue]
  exact pollDatagram_listening (s := { s with rxq := rest }) hstate d

/-- A scheduled turn of the core is its own turn, that turn taken from the schedule. -/
theorem step_core {later : List Turn} (hturns : s.turns = .core :: later) :
    step s = coreTurn { s with turns := later } := step_cons hturns

/-- Settles O24: the core's turn in `Sending` is the transmit step (R152). -/
theorem transmitStep : Obligations.TransmitStep := by
  intro s f later hturns hstate hframe
  rw [step_core hturns]
  exact coreTurn_transmit (s := { s with turns := later }) hstate hframe

/-! ## What RSEND does with a response -/

section Response

variable {r f : Frame} (a : Addr)

theorem takeResponse_ack (hsequence : r.sequence = f.sequence) (htype : r.type = 0) :
    takeResponse (.accept r a) f s = { s with result := .succeeded, arqState := .succeeded } :=
  if_pos ⟨hsequence, htype⟩

theorem takeResponse_nack (hsequence : r.sequence = f.sequence) (htype : r.type = 1) :
    takeResponse (.accept r a) f s = afterAttempt s := by
  have hnotAck : ¬(r.sequence = f.sequence ∧ r.type = tAck) := fun h => absurd (htype.symm.trans h.2) (by decide)
  exact (if_neg hnotAck).trans (if_pos ⟨hsequence, htype⟩)

theorem takeResponse_other (h : ¬(r.sequence = f.sequence ∧ (r.type = 0 ∨ r.type = 1))) :
    takeResponse (.accept r a) f s = s :=
  (if_neg fun hack => h ⟨hack.1, .inl hack.2⟩).trans (if_neg fun hnack => h ⟨hnack.1, .inr hnack.2⟩)

theorem takeResponse_notAccepted {v : Verdict} (h : ∀ r a, v ≠ .accept r a) : takeResponse v f s = s := by
  cases v with
  | reject | mismatch => rfl
  | accept r a => exact absurd rfl (h r a)

end Response

/-- Settles O25: the cases of `takeResponse` (R153, R156, R160). -/
theorem sendPollStep : Obligations.SendPollStep := by
  intro s f later hturns hstate htimer hframe
  rw [step_core hturns]
  refine ⟨coreTurn_poll_empty (s := { s with turns := later }) (polling_awaiting hstate htimer),
    fun d rest hqueue => ?_⟩
  rw [coreTurn_poll_awaiting (s := { s with turns := later }) hstate htimer hframe hqueue]
  refine ⟨fun r a hverdict hsequence htype => ?_, fun r a hverdict hsequence htype => ?_,
    fun r a hverdict hother => ?_, fun hverdict => ?_⟩
  · rw [hverdict, takeResponse_ack a hsequence htype]
  · rw [hverdict, takeResponse_nack a hsequence htype]
  · rw [hverdict, takeResponse_other a hother]
  · rw [takeResponse_notAccepted hverdict]

/-! ## What RRECV does with a request -/

theorem takeRequest_accept (f : Frame) (a : Addr) : takeRequest (.accept f a) s =
    { s with txlog := s.txlog ++ [wrap s.config (ackFrame f.sequence) a], rxf := some f, peer := some a,
             result := .received, arqState := .succeeded } := by
  rw [takeRequest, reply_ack]
  rfl

theorem takeRequest_mismatch (q : Byte) (a : Addr) : takeRequest (.mismatch q a) s =
    { s with txlog := s.txlog ++ [wrap s.config (nackFrame (q.setWidth 5)) a] } := by
  rw [takeRequest, reply_nack]
  rfl

theorem takeRequest_reject : takeRequest .reject s = s := rfl

/-- Settles O31: the three cases of `takeRequest` (R172 to R174). -/
theorem receivePollStep : Obligations.ReceivePollStep := by
  intro s later hturns hstate htimer
  rw [step_core hturns]
  refine ⟨coreTurn_poll_empty (s := { s with turns := later }) (polling_listening hstate htimer),
    fun d rest hqueue => ?_⟩
  rw [coreTurn_poll_listening (s := { s with turns := later }) hstate htimer hqueue]
  refine ⟨fun f a hverdict => ?_, fun q a hverdict => ?_, fun hverdict => ?_⟩
  · rw [hverdict, takeRequest_accept]
  · rw [hverdict, takeRequest_mismatch]
  · rw [hverdict, takeRequest_reject]

/-! ## The verdict on a frame that is presented -/

theorem filterPasses_iff (filter : Filter) (dest : Addr) :
    filterPasses filter dest = true ↔ ∀ a, filter = some a → dest = a := by
  cases filter with
  | none => exact iff_of_true (filterPasses_none dest) nofun
  | some a =>
    simp only [filterPasses_some_iff, Option.some_inj, forall_eq']
    exact eq_comm

theorem passesReject_iff (c : Config) (filter : Filter) (e : Envelope) (b : Body) : passesReject c filter e b ↔
    e.ethertype = c.ethertype ∧ filterPasses filter e.dest = true ∧ b.marker = c.startMarker := by
  rw [filterPasses_iff, passesReject]

theorem foldXor_eq_foldr (payload : List Byte) : foldXor payload = payload.foldr (fun x y => x ^^^ y) 0 := by
  induction payload with
  | nil => rfl
  | cons x xs ih => rw [foldXor, ih, List.foldr_cons]

theorem carriesChecksum_iff (t : BitVec 4) (b : Body) : carriesChecksum t b ↔ validate (b.frame t) = true := by
  rw [validate_eq_true_iff, carriesChecksum, ← foldXor_eq_foldr]
  rfl

/-- What `unwrap` says of a frame's own datagram, by the two tests of the statements (R136, R137). -/
theorem unwrap_frame {b : Body} (hpayload : b.payload.length = b.length.toNat) (c : Config) (t : BitVec 4)
    (e : Envelope) (filter : Filter) :
    (passesReject c filter e b → carriesChecksum t b →
      unwrap c (datagramBytes t e b) filter = .accept (b.frame t) e.src) ∧
    (passesReject c filter e b → ¬carriesChecksum t b →
      unwrap c (datagramBytes t e b) filter = .mismatch (b.sequence.setWidth 8) e.src) ∧
    (¬passesReject c filter e b → unwrap c (datagramBytes t e b) filter = .reject) := by
  have hverdict := unwrap_datagramBytes (beq_iff_eq.mpr hpayload : b.wf = true) c t e [] filter
  rw [List.append_nil] at hverdict
  rw [passesReject_iff, carriesChecksum_iff, hverdict]
  refine ⟨fun hpasses hcarries => ?_, fun hpasses hcarries => ?_, fun hfails => ?_⟩
  · rw [if_pos hpasses, if_pos hcarries]
  · rw [if_pos hpasses, if_neg hcarries]
  · rw [if_neg hfails]

section Presented

variable {i : Instr} {t : BitVec 4} {e : Envelope} {b : Body} (hi : i.asFrame = some (t, e, b))
include hi

/-- A frame presented to RSEND's poll is the response it takes (log entry 6). -/
theorem exec_frame_awaiting {f : Frame} (hstate : s.arqState = .awaitingResponse) (htimer : s.timer ≠ 0)
    (hframe : s.txf = some f) :
    exec i s = .next (takeResponse (unwrap s.config (datagramBytes t e b) s.filter) f s) := by
  rw [exec_frame hi, presentDatagram, if_pos (polling_awaiting hstate htimer), pollDatagram_awaiting hstate hframe]

/-- A frame presented to RRECV's poll is the request it takes (log entry 6). -/
theorem exec_frame_listening (hstate : s.arqState = .listening) (htimer : s.timer ≠ 0) :
    exec i s = .next (takeRequest (unwrap s.config (datagramBytes t e b) s.filter) s) := by
  rw [exec_frame hi, presentDatagram, if_pos (polling_listening hstate htimer), pollDatagram_listening hstate]

/-- A frame presented to a core that is not polling is the link's delivery (R37, R232). -/
theorem exec_frame_notPolling (hpolling : s.polling = false) : exec i s = .next (s.deliver (encode i)) := by
  rw [exec_frame hi, presentDatagram, if_neg (ne_true_of_eq_false hpolling), asFrame_some hi, encode_frameInstr]

end Presented

/-! ## The obligations -/

/-- Settles O27: the verdict is an acceptance of the very frame, an ACK with the sequence of `TXF`. -/
theorem ackEndsReliableSend : Obligations.AckEndsReliableSend := by
  intro s f e b hstate htimer hframe hpayload hpasses hcarries hsequence
  obtain ⟨haccept, -, -⟩ := unwrap_frame hpayload s.config 0 e s.filter
  rw [exec_frame_awaiting rfl hstate htimer hframe, haccept hpasses hcarries]
  exact congrArg _ (takeResponse_ack e.src hsequence rfl)

/-- Settles O28: the same with a NACK. -/
theorem nackEndsTheAttempt : Obligations.NackEndsTheAttempt := by
  intro s f e b hstate htimer hframe hpayload hpasses hcarries hsequence
  obtain ⟨haccept, -, -⟩ := unwrap_frame hpayload s.config 1 e s.filter
  rw [exec_frame_awaiting rfl hstate htimer hframe, haccept hpasses hcarries]
  exact congrArg _ (takeResponse_nack e.src hsequence rfl)

/-- Settles O29: a frame that fails a test is not accepted, and one accepted has another type or sequence. -/
theorem anythingElseKeepsPolling : Obligations.AnythingElseKeepsPolling := by
  intro i t e b s f hi hstate htimer hframe hpayload helse
  obtain ⟨haccept, hmismatch, hreject⟩ := unwrap_frame hpayload s.config t e s.filter
  rw [exec_frame_awaiting hi hstate htimer hframe]
  by_cases hpasses : passesReject s.config s.filter e b
  · by_cases hcarries : carriesChecksum t b
    · have hother : ¬((b.frame t).sequence = f.sequence ∧ ((b.frame t).type = 0 ∨ (b.frame t).type = 1)) := by
        rintro ⟨hsequence, htype⟩
        rcases helse with h | ⟨hnotAck, hnotNack⟩ | h | h
        · exact h hsequence
        · exact htype.elim hnotAck hnotNack
        · exact h hpasses
        · exact h hcarries
      rw [haccept hpasses hcarries, takeResponse_other e.src hother]
    · rw [hmismatch hpasses hcarries]
      rfl
  · rw [hreject hpasses]
    rfl

/-- Settles O32: the verdict is an acceptance, whatever the type and the sequence. -/
theorem listenerTakesEveryIntactFrame : Obligations.ListenerTakesEveryIntactFrame := by
  intro i t e b s hi hstate htimer hpayload hpasses hcarries
  obtain ⟨haccept, -, -⟩ := unwrap_frame hpayload s.config t e s.filter
  rw [exec_frame_listening hi hstate htimer, haccept hpasses hcarries, takeRequest_accept]
  rfl

/-- Settles O33: a wrong checksum is a mismatch, whose NACK carries the sequence back at its width; a failed reject test
is a reject. -/
theorem listenerRefusesTheRest : Obligations.ListenerRefusesTheRest := by
  intro i t e b s hi hstate htimer hpayload
  obtain ⟨-, hmismatch, hreject⟩ := unwrap_frame hpayload s.config t e s.filter
  rw [exec_frame_listening hi hstate htimer]
  refine ⟨fun hpasses hcarries => ?_, fun hfails => ?_⟩
  · rw [hmismatch hpasses hcarries, takeRequest_mismatch, setWidth_widen (show 5 ≤ 8 by decide)]
  · rw [hreject hfails, takeRequest_reject]

/-- Settles O36: the core is not polling, so the frame is the link's to deliver or to lose. -/
theorem frameWaitsUntilPolled : Obligations.FrameWaitsUntilPolled := by
  intro i t e b s hi hwaits
  have hpolling : s.polling = false := by
    rw [← Bool.not_eq_true, polling_iff]
    rintro ⟨hstate, htimer⟩
    rcases hwaits with ⟨hawaiting, hlistening⟩ | hzero
    · exact hstate.elim hawaiting hlistening
    · exact htimer hzero
  rw [exec_frame_notPolling hi hpolling, ← hasRoom_iff]
  obtain ⟨hlink, hroom, hdeliver⟩ | ⟨hlost, hdeliver⟩ := deliver_cases (encode i) s <;> rw [hdeliver]
  · exact ⟨fun _ => rfl, fun h => absurd ⟨hlink, hroom⟩ h⟩
  · exact ⟨fun h => absurd h hlost, fun _ => rfl⟩

/-- Settles O37: RSEND's poll and its transmit step look for the frame first (log entry 8). -/
theorem noFrameToSendStops : Obligations.NoFrameToSendStops := by
  refine ⟨fun i t e b s hi hstate htimer hframe => ?_, fun s later hturns hstate hframe => ?_⟩
  · rw [exec_frame hi, presentDatagram, if_pos (polling_awaiting hstate htimer)]
    simp only [pollDatagram, hstate, sPoll, hframe]
  · rw [step_cons hturns]
    simp only [turnStep, coreTurn, hstate, sTransmit, hframe]

end Sys2Proof.Proofs
end

section

/-! What the checksum and the parser do not tell apart, and what they do: R116 and R119 of spec/40_frame_codec.md, R136
of spec/41_link_transport.md. -/

namespace Sys2Proof.Proofs

open Sys2Proof.Machine

/-! ## The order of the payload -/

/-- The fold does not see the order of the bytes (R116). -/
theorem foldXor_perm {xs ys : List Byte} (h : xs.Perm ys) : foldXor xs = foldXor ys := by
  induction h with
  | nil => rfl
  | cons x _ ih => rw [foldXor, foldXor, ih]
  | swap x y zs => simp only [foldXor, ← BitVec.xor_assoc, BitVec.xor_comm y x]
  | trans _ _ ih ih' => exact ih.trans ih'

/-- Settles O10: `validate` reads the payload through its fold only. -/
theorem reorderedPayloadValidatesAlike : Obligations.ReorderedPayloadValidatesAlike := by
  intro f payload hperm
  simp only [validate, checksumOf, foldXor_perm hperm]

/-! ## The reject tests -/

theorem unwrap_eq_reject_iff (c : Config) (d : Datagram) (filter : Filter) :
    unwrap c d filter = .reject ↔ rejected c d filter = true := by
  refine ⟨fun h => ?_, fun h => if_pos h⟩
  by_contra hpasses
  rw [unwrap, if_neg hpasses] at h
  split at h <;> cases h

theorem getElem?_eq_byteAt {d : Datagram} {i : Nat} (h : i < d.length) : d[i]? = some (byteAt d i) := by
  rw [byteAt, List.getD_eq_getElem _ _ h, List.getElem?_eq_getElem h]

theorem take_six_eq_addrBytes {d : Datagram} (h : 6 ≤ d.length) : d.take 6 = addrBytes (addrAt d 0) := by
  match d with
  | _ :: _ :: _ :: _ :: _ :: _ :: _ => rfl
  | [] | [_] | [_, _] | [_, _, _] | [_, _, _, _] | [_, _, _, _, _] => simp at h

theorem addrBytes_inj {a b : Addr} : addrBytes a = addrBytes b ↔ a = b := by
  obtain ⟨⟩ := a
  obtain ⟨⟩ := b
  simp only [addrBytes, List.cons.injEq, and_true, Addr.mk.injEq]

/-- Settles O14: of a datagram with a whole header every byte the reject tests read is there. -/
theorem unwrapRejectsExactly : Obligations.UnwrapRejectsExactly := by
  intro c d filter
  rw [unwrap_eq_reject_iff]
  by_cases hshort : d.length < 19
  · exact iff_of_true (by simp only [rejected, minDatagram, hshort, decide_true, Bool.true_or]) (.inl hshort)
  have hdest : filterPasses filter (addrAt d 0) = false ↔
      ∃ a, filter = some a ∧ d.take 6 ≠ [a.b0, a.b1, a.b2, a.b3, a.b4, a.b5] := by
    rw [← Bool.not_eq_true, filterPasses_iff, take_six_eq_addrBytes (by omega)]
    simp only [not_forall, exists_prop]
    exact exists_congr fun a => and_congr_right fun _ => not_congr addrBytes_inj.symm
  rw [getElem?_eq_byteAt (show 12 < d.length by omega), getElem?_eq_byteAt (show 13 < d.length by omega),
    getElem?_eq_byteAt (show 14 < d.length by omega), ← hdest]
  simp only [rejected, minDatagram, hshort, decide_false, Bool.false_or, Bool.or_eq_true, bne_iff_ne,
    Bool.not_eq_true', Option.some_inj, false_or, ne_eq, not_and_or, or_assoc]

end Sys2Proof.Proofs
end

section

/-! The turns of the host, the clock and the link: which bytes are a command, what a step runs, and what a command
leaves alone (spec/30_encoding.md rule R93, spec/20_memory.md rules R60 and R62, spec/10_state.md rules R26, R30 and
R37). -/

namespace Sys2Proof.Proofs

open Sys2Proof.Machine

variable {s : State}

/-! ## The host's turn -/

/-- A busy core takes no command of the ten (R30, R239). -/
theorem exec_busy (hbusy : s.busy = true) {i : Instr} (hcommand : i.asFrame = none) : exec i s = .next s := by
  cases i with
  | openHandle | closeHandle | build | validate | lsend | lrecv | rsend | rrecv | seqrd | seqadv =>
    simp only [exec, execOpen, execClose, execBuild, execValidate, execLsend, execLrecv, execRsend, execRrecv,
      execSeqrd, execSeqadv, whenReady_busy hbusy]
  | _ => cases hcommand

theorem hostTurn_busy (hbusy : s.busy = true) : hostTurn s = .next s :=
  if_neg fun hready => not_busy_of_ready hready hbusy

theorem hostTurn_command {i : Instr} {bytes : List Byte} {later : List (List Byte)} (hready : s.ready = true)
    (hcommands : s.commands = bytes :: later) (hdecode : decodeCommand bytes = .ok (i, [])) :
    hostTurn s = exec i { s with commands := later } := by
  simp only [hostTurn, if_pos hready, hcommands, commandOf, hdecode]

theorem hostTurn_unspelled {bytes : List Byte} {later : List (List Byte)} (hready : s.ready = true)
    (hcommands : s.commands = bytes :: later) (hunspelled : commandOf bytes = none) :
    hostTurn s = .next { s with commands := later } := by
  simp only [hostTurn, if_pos hready, hcommands, hunspelled]

theorem pollTurn_frame {i : Instr} {d : Datagram} {ds : List Datagram} {rest : List Byte} (hqueue : s.rxq = d :: ds)
    (hdecode : decodeDatagram d = .ok (i, rest)) : pollTurn s = exec i { s with rxq := ds } := by
  simp only [pollTurn, hqueue, hdecode]

/-- Settles O42: the host's turn decodes the transaction at the head of its queue, and the poll step the datagram at the
head of `RXQ`. -/
theorem stepRunsTheDecodedInstruction : Obligations.StepRunsTheDecodedInstruction := by
  refine ⟨fun s i bytes cmds later hturns hready hcommands hdecode => ?_,
    fun s i d rest ds later hturns hpolling hqueue hdecode => ?_⟩
  · rw [step_cons hturns]
    exact hostTurn_command (s := { s with turns := later }) hready hcommands hdecode
  · rw [step_cons hturns, turnStep, coreTurn_polling (s := { s with turns := later }) hpolling]
    exact pollTurn_frame (s := { s with turns := later }) hqueue hdecode

/-- Settles O40: each of the ten commands asks first whether the core is ready, and so does the host's turn. -/
theorem busyCoreTakesNoCommand : Obligations.BusyCoreTakesNoCommand := by
  intro s hbusy
  refine ⟨fun i hcommand => exec_busy hbusy hcommand, fun later hturns => ?_⟩
  rw [step_cons hturns]
  exact hostTurn_busy (s := { s with turns := later }) hbusy

/-! ## A word that is placed -/

theorem placeCommand_ready (bytes : List Byte) (s : State) : (placeCommand bytes s).ready = true := by
  by_cases hready : s.ready = true
  · have hkept : (placeCommand bytes s).arqState = s.arqState := if_pos hready
    rw [ready_iff, hkept]
    exact ready_iff.mp hready
  · exact ready_iff.mpr (.inl (if_neg hready))

theorem placeDatagram_polling (d : Datagram) (s : State) : (placeDatagram d s).polling = true := by
  by_cases hpolling : s.polling = true
  · have hstate : (placeDatagram d s).arqState = s.arqState := if_pos hpolling
    have htimer : (placeDatagram d s).timer = s.timer := if_pos hpolling
    rw [polling_iff, hstate, htimer]
    exact polling_iff.mp hpolling
  · have htimer : (placeDatagram d s).timer = BitVec.ofNat 11 timeoutMs := if_neg hpolling
    exact polling_iff.mpr ⟨.inr (if_neg hpolling), htimer ▸ by decide⟩

/-- Settles O43: what is placed decodes to the row's instruction (`tableWord_decodes`), at the head of a queue whose
agent is to move. -/
theorem placedWordRunsNext : Obligations.PlacedWordRunsNext := by
  intro s nbits w i hrow
  obtain ⟨rest, hdecode, hwhole⟩ := tableWord_decodes hrow
  obtain ⟨hhost, hcore⟩ := stepRunsTheDecodedInstruction
  rw [State.withFetchWord, placeWord]
  cases hport : tablePort nbits with
  | command =>
    rw [hport] at hdecode hwhole
    obtain rfl := hwhole rfl
    have hi : i.port = .command := (decodedBytesAreTheEncoding _ _ _ _ hdecode).2.1
    have hready := placeCommand_ready (tableWordBytes nbits w) s
    refine ⟨_, hhost _ i _ s.commands s.turns rfl hready rfl hdecode, rfl, rfl, rfl, fun _ => hready, ?_⟩
    rw [hi]
    exact nofun
  | receive =>
    rw [hport] at hdecode
    have hi : i.port = .receive := (decodedBytesAreTheEncoding _ _ _ _ hdecode).2.1
    have hpolling := placeDatagram_polling (tableWordBytes nbits w) s
    refine ⟨_, hcore _ i _ rest s.rxq s.turns rfl hpolling rfl hdecode, rfl, rfl, rfl, ?_, fun _ => hpolling⟩
    rw [hi]
    exact nofun

/-! ## Commands in a row, and what each leaves alone -/

/-- Settles O22: by induction on the number of SEQADVs, each of which leaves the core ready and adds 1 (R191, R193). -/
theorem sequenceCountsModulo32 : Obligations.SequenceCountsModulo32 := by
  intro n
  have hcount : ∀ s : State, s.ready = true → ∃ t, execAll (List.replicate n .seqadv) s = .next t ∧
      t.seq.toNat = (s.seq.toNat + n) % seqMod := by
    induction n with
    | zero => exact fun s _ => ⟨s, rfl, (Nat.mod_eq_of_lt s.seq.isLt).symm⟩
    | succ n ih =>
      intro s hready
      obtain ⟨t, hrun, hseq⟩ := ih { s with seq := s.seq + 1, result := .ok } hready
      have hexec : exec .seqadv s = .next { s with seq := s.seq + 1, result := .ok } :=
        exec_of_effect hready rfl .seqadv
      refine ⟨t, ?_, ?_⟩
      · simp only [List.replicate_succ, execAll, hexec, hrun]
      · rw [hseq, toNat_seq_add_one, Nat.mod_add_mod, Nat.add_assoc, Nat.add_comm 1 n]
  intro s hready
  obtain ⟨t, hrun, hseq⟩ := hcount s hready
  refine ⟨t, hrun, hseq, fun hreset => ?_⟩
  rw [hseq, hreset]
  exact congrArg (· % seqMod) (Nat.zero_add n)

section Frame

variable {t : State} {i : Instr} (h : Effect s i t)
include h

theorem effect_environment :
    t.config = s.config ∧ t.grant = s.grant ∧ t.commands = s.commands ∧ t.turns = s.turns := by
  cases h <;> exact ⟨rfl, rfl, rfl, rfl⟩

theorem effect_arq (hrsend : ∀ a f, i ≠ .rsend a f) (hrrecv : ∀ f, i ≠ .rrecv f) :
    t.arqState = s.arqState ∧ t.attempts = s.attempts ∧ t.timer = s.timer ∧ t.txdest = s.txdest ∧
      t.filter = s.filter := by
  cases h with
  | rsendNoLink a f | rsendNoFrame a f | rsendOk a f => exact absurd rfl (hrsend a f)
  | rrecvNoLink f | rrecvOk f => exact absurd rfl (hrrecv f)
  | _ => exact ⟨rfl, rfl, rfl, rfl, rfl⟩

theorem effect_seq (hi : i ≠ .seqadv) : t.seq = s.seq := by
  cases h with
  | seqadv => exact absurd rfl hi
  | _ => rfl

theorem effect_txf (hi : ∀ a b c d, i ≠ .build a b c d) : t.txf = s.txf := by
  cases h with
  | buildOk seq typ len payload => exact absurd rfl (hi seq typ len payload)
  | _ => rfl

theorem effect_receiveBuffer (hi : ∀ f, i ≠ .lrecv f) : t.rxf = s.rxf ∧ t.peer = s.peer := by
  cases h with
  | lrecvFrame f => exact absurd rfl (hi f)
  | _ => exact ⟨rfl, rfl⟩

theorem effect_txlog (hi : ∀ a, i ≠ .lsend a) : t.txlog = s.txlog := by
  cases h with
  | lsendOk dest => exact absurd rfl (hi dest)
  | _ => rfl

theorem effect_linkState (hopen : i ≠ .openHandle) (hclose : i ≠ .closeHandle) : t.linkState = s.linkState := by
  cases h with
  | openGranted | openRefused => exact absurd rfl hopen
  | closeOpen => exact absurd rfl hclose
  | _ => rfl

theorem effect_rxq (hopen : i ≠ .openHandle) (hclose : i ≠ .closeHandle) (hlrecv : ∀ f, i ≠ .lrecv f) :
    t.rxq = s.rxq := by
  cases h with
  | openGranted | openRefused => exact absurd rfl hopen
  | closeOpen => exact absurd rfl hclose
  | lrecvReject f | lrecvMismatch f | lrecvFrame f => exact absurd rfl (hlrecv f)
  | _ => rfl

end Frame

/-- Settles O41: a busy core keeps everything, and of a ready one each command writes `RESULT` and its own registers. -/
theorem nonArqCommandsFrame : Obligations.NonArqCommandsFrame := by
  intro i s t hcommand hrsend hrrecv hexec
  obtain ⟨-, rfl⟩ | ⟨-, heffect⟩ := exec_command_cases hcommand hexec
  · simp only [implies_true, and_self]
  · obtain ⟨hstate, hattempts, htimer, hdest, hfilter⟩ := effect_arq heffect hrsend hrrecv
    obtain ⟨hconfig, hgrant, hcommands, hturns⟩ := effect_environment heffect
    exact ⟨hstate, hattempts, htimer, hdest, hfilter, hconfig, hgrant, hcommands, hturns, effect_seq heffect,
      effect_txf heffect, effect_receiveBuffer heffect, effect_txlog heffect, effect_linkState heffect,
      effect_rxq heffect⟩

/-! ## The clock and the link -/

/-- Settles O34: the clock's turn is `tick`, which counts while the core polls (R159). -/
theorem clockTick : Obligations.ClockTick := by
  intro s later hturns
  rw [step_cons hturns, turnStep]
  obtain ⟨hpolling, htick⟩ | ⟨hidle, htick⟩ := tick_cases { s with turns := later } <;> rw [htick]
  · have hwaits := polling_iff.mp hpolling
    exact ⟨fun _ _ => ⟨_, timer_pred hwaits.2, rfl⟩, fun h => absurd hwaits h⟩
  · rw [← Bool.not_eq_true, polling_iff] at hidle
    exact ⟨fun hstate htimer => absurd ⟨hstate, htimer⟩ hidle, fun _ => rfl⟩

/-- Settles O35: the link's turn is `deliver` (R37, R62). -/
theorem linkDelivery : Obligations.LinkDelivery := by
  intro s d later hturns
  rw [step_cons hturns, turnStep, ← hasRoom_iff]
  obtain ⟨hlink, hroom, hdeliver⟩ | ⟨hlost, hdeliver⟩ := deliver_cases d { s with turns := later } <;> rw [hdeliver]
  · exact ⟨fun _ => rfl, fun h => absurd ⟨hlink, hroom⟩ h⟩
  · exact ⟨fun h => absurd h hlost, fun _ => rfl⟩

end Sys2Proof.Proofs
end

section

/-! What the bytes of a command satisfy, and so which bytes spell none (spec/30_encoding.md rule R93,
spec/40_frame_codec.md rule R115). -/

namespace Sys2Proof.Proofs

open Sys2Proof.Machine

/-- What a code byte and its operands satisfy when they are a command (R93): the code is in the table, each flag byte
is 0 or 1, VALIDATE's fields are in range (R115), and there are exactly the operand bytes the command has. -/
structure SpellsCommand (code : Byte) (operands : List Byte) : Prop where
  known : code ∈ [0x01, 0x02, 0x10, 0x11, 0x20, 0x21, 0x30, 0x31, 0x40, 0x41]
  flag : code ∈ [0x21, 0x31] → ∀ b, operands[0]? = some b → b = 0 ∨ b = 1
  rsendFlag : code = 0x30 → ∀ b, operands[6]? = some b → b = 0 ∨ b = 1
  inRange : code = 0x11 → ∀ l q t rest, operands = l :: q :: t :: rest → l.toNat ≤ 127 ∧ q.toNat ≤ 31 ∧ t.toNat ≤ 15
  count : operandCount code operands = some operands.length

theorem filterWire_length (unused : Addr) (filter : Filter) : (filterWire unused filter).length = 7 := by
  cases filter <;> rfl

theorem filterWire_flag (unused : Addr) (filter : Filter) {b : Byte}
    (h : (filterWire unused filter)[0]? = some b) : b = 0 ∨ b = 1 := by
  cases filter with
  | none => exact .inl (Option.some.inj h).symm
  | some a => exact .inr (Option.some.inj h).symm

/-- The bytes of a command on the port spell one, whatever stands in the place of an absent filter. -/
theorem spellsCommand_of_wire {i : Instr} (hcommand : i.asFrame = none) (hwf : i.wf = true) {unused : Addr}
    {code : Byte} {operands : List Byte} (h : commandWire unused i = code :: operands) :
    SpellsCommand code operands := by
  cases i with
  | openHandle | closeHandle | seqrd | seqadv | lsend =>
    cases h
    exact ⟨by decide, fun hcode => absurd hcode (by decide), nofun, nofun, rfl⟩
  | build seq typ len payload =>
    cases h
    refine ⟨by decide, fun hcode => absurd hcode (by decide), nofun, nofun, ?_⟩
    have hcount : operandCount 0x10 (seq :: typ :: len :: payload) = some (3 + len.toNat) := rfl
    rw [← beq_iff_eq.mp hwf, Nat.add_comm] at hcount
    exact hcount
  | validate f =>
    cases h
    refine ⟨by decide, fun hcode => absurd hcode (by decide), nofun, ?_, ?_⟩
    · rintro - l q t rest ⟨⟩
      exact (headerInRange_iff _ _ _).mp (headerInRange_setWidth ..)
    · have hcount : operandCount 0x11 (f.length.setWidth 8 :: f.sequence.setWidth 8 :: f.type.setWidth 8 ::
          f.checksum :: f.payload) = some (4 + (f.length.setWidth 8).toNat) := rfl
      rw [BitVec.toNat_setWidth_of_le (by decide), ← beq_iff_eq.mp hwf, Nat.add_comm] at hcount
      exact hcount
  | lrecv filter | rrecv filter =>
    cases h
    refine ⟨by decide, fun _ b hb => filterWire_flag unused filter hb, nofun, nofun, ?_⟩
    rw [filterWire_length]
    rfl
  | rsend dest filter =>
    cases h
    refine ⟨by decide, fun hcode => absurd hcode (by decide), fun _ b hb => filterWire_flag unused filter hb, nofun, ?_⟩
    rw [List.length_append, filterWire_length]
    rfl
  | _ => cases hcommand

/-- A transaction that is a command spells one. -/
theorem spellsCommand_of_commandOf {bytes : List Byte} {i : Instr} (h : commandOf bytes = some i) :
    ∃ code operands, bytes = code :: operands ∧ SpellsCommand code operands := by
  have hdecode : decodeCommand bytes = .ok (i, []) := by
    unfold commandOf at h
    split at h
    · rename_i hdecode; cases h; exact hdecode
    · cases h
    · cases h
  obtain ⟨hwf, hcommand, -⟩ := decodeCommand_prefix hdecode
  obtain ⟨unused, hwire⟩ := decodeCommand_wire hdecode
  rw [List.append_nil] at hwire
  cases bytes with
  | nil => cases hdecode
  | cons code operands => exact ⟨code, operands, rfl, spellsCommand_of_wire hcommand hwf hwire⟩

/-- Settles O5: each of the listed transactions fails one of the conditions of `SpellsCommand`, so the host's turn only
takes it from the queue. -/
theorem unspelledCommandChangesNothing : Obligations.UnspelledCommandChangesNothing := by
  intro s bytes cmds later hready hturns hcommands hbytes
  have hunspelled : commandOf bytes = none := by
    by_contra hspelled
    obtain ⟨i, hi⟩ := Option.ne_none_iff_exists'.mp hspelled
    obtain ⟨code, operands, rfl, hspells⟩ := spellsCommand_of_commandOf hi
    rcases hbytes with hempty | ⟨_, _, ⟨⟩, hbad⟩
    · cases hempty
    rcases hbad with hunknown | ⟨hcode, b, hb, h0, h1⟩ | ⟨hcode, b, hb, h0, h1⟩ |
      ⟨hcode, l, q, t, rest, hoperands, hout⟩ | hcount
    · exact hunknown hspells.known
    · exact (hspells.flag hcode b hb).elim h0 h1
    · exact (hspells.rsendFlag hcode b hb).elim h0 h1
    · obtain ⟨hl, hq, ht⟩ := hspells.inRange hcode l q t rest hoperands
      omega
    · exact hcount hspells.count
  rw [step_cons hturns]
  exact hostTurn_unspelled (s := { s with turns := later }) hready hcommands hunspelled

end Sys2Proof.Proofs
end

section

/-! Which registers a step may write, and when: each statement is a case split over `Move`, everything a turn can do
(spec/10_state.md, spec/42_arq_send.md rules R157 and R163, spec/43_arq_receive.md rule R176, spec/60_exceptions.md rule
R231). -/

namespace Sys2Proof.Proofs

open Sys2Proof.Machine

variable {s t : State} {turn : Turn}

theorem not_ready_of_busy (hbusy : s.busy = true) : ¬s.ready = true := fun hready => not_busy_of_ready hready hbusy

theorem busy_of_sending (h : s.arqState = .sending ∨ s.arqState = .awaitingResponse) : s.busy = true :=
  busy_iff.mpr (h.imp_right .inl)

/-! ## The handle and the sequence number -/

theorem effect_failedHandle {i : Instr} (h : Effect s i t) (hfailed : s.linkState = .failed) :
    t.linkState = .failed := by
  cases h with
  | openGranted hclosed | openRefused hclosed => cases hfailed.symm.trans hclosed
  | closeOpen hopened => cases hfailed.symm.trans hopened
  | _ => exact hfailed

theorem move_failedHandle (h : Move s turn t) (hreset : turn ≠ .reset) (hfailed : s.linkState = .failed) :
    t.linkState = .failed := by
  cases h with
  | hostCommand _ _ _ _ _ _ _ _ _ heffect => exact effect_failedHandle heffect hfailed
  | reset => exact absurd rfl hreset
  | _ => exact hfailed

/-- Settles O48: OPEN and CLOSE change a handle that is not `Failed`, and no other turn writes it (R35). -/
theorem failedHandleLeftOnlyByReset : Obligations.FailedHandleLeftOnlyByReset := by
  intro s t hstep hfailed hreset
  obtain ⟨later, hmove, -⟩ := move_of_step hstep
  exact move_failedHandle hmove hreset hfailed

/-- SEQADV is one byte on the port. -/
theorem bytes_of_seqadv {bytes : List Byte} (h : decodeCommand bytes = .ok (.seqadv, [])) : bytes = [0x41] := by
  obtain ⟨_, hwire⟩ := decodeCommand_wire h
  exact hwire.symm

theorem move_seq (h : Move s turn t) (hchanged : t.seq ≠ s.seq) :
    turn = .reset ∨ (turn = .host ∧ s.ready = true ∧ ∃ cmds, s.commands = [0x41] :: cmds) := by
  cases h with
  | hostCommand bytes later i _ hready hcommands hdecode _ _ heffect =>
    obtain rfl : i = .seqadv := by
      by_contra hi
      exact hchanged (effect_seq heffect hi :)
    rw [bytes_of_seqadv hdecode] at hcommands
    exact .inr ⟨rfl, hready, later, hcommands⟩
  | reset => exact .inl rfl
  | _ => exact absurd rfl hchanged

/-- Settles O49: of the commands only SEQADV writes `SEQ`, and of the other turns only reset (R21). -/
theorem sequenceWrittenOnlyBySeqadv : Obligations.SequenceWrittenOnlyBySeqadv := by
  intro s t hstep hchanged
  obtain ⟨later, hmove, -⟩ := move_of_step hstep
  exact (move_seq hmove hchanged :)

/-! ## The parameters and the transmit history -/

theorem effect_txlog_grows {i : Instr} (h : Effect s i t) : ∃ sent, t.txlog = s.txlog ++ sent ∧ sent.length ≤ 1 := by
  cases h with
  | lsendOk dest f => exact ⟨[wrap s.config f dest], rfl, le_rfl⟩
  | _ => exact ⟨[], (List.append_nil _).symm, Nat.zero_le _⟩

theorem move_config (h : Move s turn t) : t.config = s.config := by
  cases h with
  | hostCommand _ _ _ _ _ _ _ _ _ heffect => exact (effect_environment heffect :).1
  | _ => rfl

theorem move_txlog_grows (h : Move s turn t) : ∃ sent, t.txlog = s.txlog ++ sent ∧ sent.length ≤ 1 := by
  cases h with
  | hostCommand _ _ _ _ _ _ _ _ _ heffect => exact (effect_txlog_grows heffect :)
  | transmit f => exact ⟨[wrap s.config f s.txdest], rfl, le_rfl⟩
  | rAccept _ _ f a => exact ⟨[wrap s.config (ackFrame f.sequence) a], rfl, le_rfl⟩
  | rMismatch _ _ q a => exact ⟨[wrap s.config (nackFrame (q.setWidth 5)) a], rfl, le_rfl⟩
  | _ => exact ⟨[], (List.append_nil _).symm, Nat.zero_le _⟩

/-- Settles O53: no turn writes the parameters, and LSEND, the transmit step and RRECV's replies are all that is ever
emitted (R34, R39). -/
theorem parametersAndHistoryKept : Obligations.ParametersAndHistoryKept := by
  intro s t hstep
  obtain ⟨later, hmove, -⟩ := move_of_step hstep
  exact ⟨(move_config hmove :), (move_txlog_grows hmove :)⟩

/-! ## The receive buffer -/

theorem effect_receiveBuffer_written {filter : Filter} (h : Effect s (.lrecv filter) t)
    (hchanged : t.rxf ≠ s.rxf ∨ t.peer ≠ s.peer) : ∃ d rest f a, s.rxq = d :: rest ∧ t.rxq = rest ∧
      unwrap s.config d filter = .accept f a ∧ t.rxf = some f ∧ t.peer = some a ∧ t.result = .frame := by
  cases h with
  | lrecvFrame _ d rest f a _ hqueue hverdict => exact ⟨d, rest, f, a, hqueue, rfl, hverdict, rfl, rfl, rfl⟩
  | _ => exact hchanged.elim (absurd rfl) (absurd rfl)

theorem move_receiveBuffer (h : Move s turn t) (hreset : turn ≠ .reset) (hchanged : t.rxf ≠ s.rxf ∨ t.peer ≠ s.peer) :
    ∃ d rest filter f a, s.rxq = d :: rest ∧ t.rxq = rest ∧ unwrap s.config d filter = .accept f a ∧
      t.rxf = some f ∧ t.peer = some a ∧
      ((turn = .host ∧ s.ready = true ∧ t.result = .frame ∧
          ∃ bytes cmds, s.commands = bytes :: cmds ∧ decode .command bytes = .ok (.lrecv filter, [])) ∨
        (turn = .core ∧ s.arqState = .listening ∧ s.timer ≠ 0 ∧ filter = s.filter ∧ t.result = .received)) := by
  cases h with
  | hostCommand bytes later i _ hready hcommands hdecode _ _ heffect =>
    obtain ⟨filter, rfl⟩ : ∃ filter, i = .lrecv filter := by
      by_contra hi
      obtain ⟨hrxf, hpeer⟩ := effect_receiveBuffer heffect (not_exists.mp hi)
      exact hchanged.elim (absurd hrxf) (absurd hpeer)
    obtain ⟨d, rest, f, a, hqueue, hrest, hverdict, hrxf, hpeer, hresult⟩ :=
      effect_receiveBuffer_written heffect hchanged
    exact ⟨d, rest, filter, f, a, hqueue, hrest, hverdict, hrxf, hpeer,
      .inl ⟨rfl, hready, hresult, bytes, later, hcommands, hdecode⟩⟩
  | rAccept d rest f a hstate htimer hqueue hverdict =>
    exact ⟨d, rest, s.filter, f, a, hqueue, rfl, hverdict, rfl, rfl, .inr ⟨rfl, hstate, htimer, rfl, rfl⟩⟩
  | reset => exact absurd rfl hreset
  | _ => exact hchanged.elim (absurd rfl) (absurd rfl)

/-- Settles O51: of the commands only LRECV writes `RXF` and `PEER`, of the core's steps only RRECV's poll, and both
on an acceptance only (R24). -/
theorem receiveBufferWrittenOnlyOnAcceptance : Obligations.ReceiveBufferWrittenOnlyOnAcceptance := by
  intro s t hstep hchanged hreset
  obtain ⟨later, hmove, -⟩ := move_of_step hstep
  exact (move_receiveBuffer hmove hreset hchanged :)

/-! ## The end of a running command -/

theorem move_succeeded (h : Move s turn t) (hbusy : s.busy = true) (hresult : t.result = .succeeded)
    (hbefore : s.result ≠ .succeeded) :
    ∃ d rest r a f, s.rxq = d :: rest ∧ t.rxq = rest ∧ intact d = true ∧
      unwrap s.config d s.filter = .accept r a ∧ s.txf = some f ∧ r.type = tAck ∧ r.sequence = f.sequence := by
  cases h with
  | sAck f d rest r a _ _ hframe hqueue hverdict hsequence htype =>
    obtain ⟨-, hintact, -⟩ := unwrap_accept hverdict
    exact ⟨d, rest, r, a, f, hqueue, rfl, hintact, hverdict, hframe, htype, hsequence⟩
  | hostCommand _ _ _ _ hready => exact absurd hready (not_ready_of_busy hbusy)
  | sNackFails | sTimeoutFails | rAccept | rTimeout | reset => cases hresult
  | _ => exact absurd hresult hbefore

/-- Settles O52: of a busy core's turns only a matching ACK writes `Succeeded` (R163). -/
theorem succeededMeansMatchingAckPopped : Obligations.SucceededMeansMatchingAckPopped := by
  intro s t hstep hbusy hresult hbefore
  obtain ⟨later, hmove, -⟩ := move_of_step hstep
  exact (move_succeeded hmove hbusy hresult hbefore :)

/-- A busy core that a turn leaves ready has ended its command, each command in its own results. -/
theorem move_end_result (h : Move s turn t) (hreset : turn ≠ .reset) (hbusy : s.busy = true)
    (hended : t.busy = false) :
    (s.arqState = .awaitingResponse ∧ t.result ∈ [.succeeded, .failedNoAck]) ∨
      (s.arqState = .listening ∧ t.result ∈ [.received, .failedTimeout]) := by
  cases h with
  | sAck _ _ _ _ _ hstate => exact .inl ⟨hstate, .head _⟩
  | sNackFails _ _ _ _ _ hstate | sTimeoutFails hstate => exact .inl ⟨hstate, .tail _ (.head _)⟩
  | rAccept _ _ _ _ hstate => exact .inr ⟨hstate, .head _⟩
  | rTimeout hstate => exact .inr ⟨hstate, .tail _ (.head _)⟩
  | transmit | sNackAgain | sTimeoutAgain => cases hended
  | hostCommand _ _ _ _ hready => exact absurd hready (not_ready_of_busy hbusy)
  | reset => exact absurd rfl hreset
  | _ => exact absurd hbusy (ne_true_of_eq_false hended)

/-- Settles O58: each case of `Effect` writes a result of its command's column of R231, and each turn that ends a
running command one of that command's. -/
theorem resultsOfEachCommand : Obligations.ResultsOfEachCommand := by
  refine ⟨fun i s t hready hexec => ?_, fun s t hstep hreset hbusy hended => ?_⟩
  · have heffect : i.asFrame = none → Effect s i t := fun hcommand =>
      ((exec_command_cases hcommand hexec).resolve_left fun hbusy => not_busy_of_ready hready hbusy.1).2
    refine ⟨?_, ?_, ?_, ?_, ?_, ?_, ?_, ?_, ?_⟩
    · rintro (rfl | rfl) <;> cases heffect rfl <;> simp
    · rintro ⟨_, _, _, _, rfl⟩; cases heffect rfl <;> simp
    · rintro ⟨_, rfl⟩; cases heffect rfl; exact ⟨_, rfl⟩
    · rintro ⟨_, rfl⟩; cases heffect rfl <;> simp
    · rintro ⟨_, rfl⟩; cases heffect rfl <;> simp
    · rintro ⟨_, _, rfl⟩; cases heffect rfl <;> simp
    · rintro ⟨_, rfl⟩; cases heffect rfl <;> simp
    · rintro rfl; cases heffect rfl; exact ⟨_, rfl⟩
    · rintro rfl; cases heffect rfl; rfl
  · obtain ⟨later, hmove, -⟩ := move_of_step hstep
    obtain ⟨hstate, hresult⟩ | ⟨hstate, hresult⟩ := move_end_result hmove hreset hbusy hended
    · exact ⟨fun _ => hresult, fun hlistening => nomatch hstate.symm.trans hlistening⟩
    · refine ⟨fun hsending => ?_, fun _ => hresult⟩
      rcases hsending with hsending | hsending <;> cases hstate.symm.trans hsending

/-! ## The transition tables -/

theorem effect_arqState {i : Instr} (h : Effect s i t) (hchanged : t.arqState ≠ s.arqState) :
    s.linkState = .opened ∧
      ((∃ dest filter, i = .rsend dest filter ∧ s.txf ≠ none ∧ t.arqState = .sending) ∨
        ∃ filter, i = .rrecv filter ∧ t.arqState = .listening) := by
  cases h with
  | rsendOk dest filter f hlink hframe =>
    exact ⟨hlink, .inl ⟨dest, filter, rfl, hframe ▸ Option.some_ne_none f, rfl⟩⟩
  | rrecvOk filter hlink => exact ⟨hlink, .inr ⟨filter, rfl, rfl⟩⟩
  | _ => exact absurd rfl hchanged

/-- Settles O47: the turns that write ARQ_STATE are the acceptance of RSEND or RRECV, RSEND's three steps and RRECV's
two (R157, R176). -/
theorem arqStateTransitions : Obligations.ArqStateTransitions := by
  intro s t hstep hreset hchanged
  obtain ⟨later, hmove, -⟩ := move_of_step hstep
  generalize turnOf s = turn at hmove hreset ⊢
  cases hmove with
  | hostCommand bytes cmds i _ hready hcommands hdecode _ _ heffect =>
    left
    obtain ⟨hlink, ⟨dest, filter, rfl, hframe, hsending⟩ | ⟨filter, rfl, hlistening⟩⟩ :=
      effect_arqState heffect hchanged
    · exact ⟨hready, rfl, hlink, bytes, cmds, hcommands, .inl ⟨dest, filter, hdecode, hframe, hsending⟩⟩
    · exact ⟨hready, rfl, hlink, bytes, cmds, hcommands, .inr ⟨filter, hdecode, hlistening⟩⟩
  | transmit f hstate => exact .inr (.inl ⟨rfl, hstate, rfl⟩)
  | sAck f d rest r a hstate htimer hframe hqueue hverdict hsequence htype =>
    exact .inr (.inr (.inl ⟨rfl, hstate, htimer, rfl, d, rest, r, a, f, hqueue, hverdict, hframe, hsequence, htype⟩))
  | sNackAgain f d rest r a hstate _ hframe hqueue hverdict hsequence htype hleft =>
    exact .inr (.inr (.inr (.inl ⟨rfl, hstate, .inl ⟨rfl, hleft⟩,
      .inr ⟨d, rest, r, a, f, hqueue, hverdict, hframe, hsequence, htype⟩⟩)))
  | sNackFails f d rest r a hstate _ hframe hqueue hverdict hsequence htype hlast =>
    exact .inr (.inr (.inr (.inl ⟨rfl, hstate, .inr ⟨rfl, hlast⟩,
      .inr ⟨d, rest, r, a, f, hqueue, hverdict, hframe, hsequence, htype⟩⟩)))
  | sTimeoutAgain hstate htimer hleft =>
    exact .inr (.inr (.inr (.inl ⟨rfl, hstate, .inl ⟨rfl, hleft⟩, .inl htimer⟩)))
  | sTimeoutFails hstate htimer hlast =>
    exact .inr (.inr (.inr (.inl ⟨rfl, hstate, .inr ⟨rfl, hlast⟩, .inl htimer⟩)))
  | rAccept d rest f a hstate htimer hqueue hverdict =>
    exact .inr (.inr (.inr (.inr (.inl ⟨rfl, hstate, htimer, rfl, d, rest, f, a, hqueue, hverdict⟩))))
  | rTimeout hstate htimer => exact .inr (.inr (.inr (.inr (.inr ⟨rfl, hstate, htimer, rfl⟩))))
  | reset => exact absurd rfl hreset
  | _ => exact absurd rfl hchanged

end Sys2Proof.Proofs
end

section

/-! Running commands over one step and over many: what they keep and emit, and the bounds on their transmissions and on
their clock ticks (spec/20_memory.md rule R67, spec/42_arq_send.md rules R161 and R162, spec/43_arq_receive.md rule
R178). -/

namespace Sys2Proof.Proofs

open Sys2Proof.Machine

variable {s t : State} {turn : Turn}

/-! ## What one step of a running command keeps and emits -/

theorem move_operands (h : Move s turn t) (hbusy : s.busy = true) (hreset : turn ≠ .reset) :
    t.txf = s.txf ∧ t.txdest = s.txdest ∧ t.filter = s.filter := by
  cases h with
  | hostCommand _ _ _ _ hready => exact absurd hready (not_ready_of_busy hbusy)
  | reset => exact absurd rfl hreset
  | _ => exact ⟨rfl, rfl, rfl⟩

theorem move_emission (h : Move s turn t) (hbusy : s.busy = true) :
    t.txlog = s.txlog ∨
      (turn = .core ∧ s.arqState = .listening ∧ s.timer ≠ 0 ∧
        ∃ d rest, s.rxq = d :: rest ∧ t.rxq = rest ∧
          ((∃ f a, unwrap s.config d s.filter = .accept f a ∧
              t.txlog = s.txlog ++ [wrap s.config (ackFrame f.sequence) a]) ∨
            ∃ q a, unwrap s.config d s.filter = .mismatch q a ∧
              t.txlog = s.txlog ++ [wrap s.config (nackFrame (q.setWidth 5)) a])) ∨
      (turn = .core ∧ s.arqState = .sending ∧
        ∃ f, s.txf = some f ∧ t.txlog = s.txlog ++ [wrap s.config f s.txdest]) := by
  cases h with
  | transmit f hstate hframe => exact .inr (.inr ⟨rfl, hstate, f, hframe, rfl⟩)
  | rAccept d rest f a hstate htimer hqueue hverdict =>
    exact .inr (.inl ⟨rfl, hstate, htimer, d, rest, hqueue, rfl, .inl ⟨f, a, hverdict, rfl⟩⟩)
  | rMismatch d rest q a hstate htimer hqueue hverdict =>
    exact .inr (.inl ⟨rfl, hstate, htimer, d, rest, hqueue, rfl, .inr ⟨q, a, hverdict, rfl⟩⟩)
  | hostCommand _ _ _ _ hready => exact absurd hready (not_ready_of_busy hbusy)
  | _ => exact .inl rfl

/-- A running RSEND that a turn leaves busy is still that RSEND (R157). -/
theorem move_sending (h : Move s turn t) (hstate : s.arqState = .sending ∨ s.arqState = .awaitingResponse)
    (hbusy : t.busy = true) : t.arqState = .sending ∨ t.arqState = .awaitingResponse := by
  cases h with
  | transmit => exact .inr rfl
  | sNackAgain | sTimeoutAgain => exact .inl rfl
  | sAck | sNackFails | sTimeoutFails | rAccept | rTimeout | reset => cases hbusy
  | hostCommand _ _ _ _ hready => exact absurd hready (not_ready_of_busy (busy_of_sending hstate))
  | _ => exact hstate

/-! ## Over many steps -/

/-- What a running RSEND emits over `n` steps without a reset: copies of the one datagram its registers make (R67). -/
theorem runSteps_txlog (n : Nat) {f : Frame}
    (hstate : s.busy = true → s.arqState = .sending ∨ s.arqState = .awaitingResponse) (hframe : s.txf = some f)
    (hruns : ∀ m < n, ∃ u, runSteps m s = .next u ∧ u.busy = true ∧ turnOf u ≠ .reset)
    (hrun : runSteps n s = .next t) : ∃ k, t.txlog = s.txlog ++ List.replicate k (wrap s.config f s.txdest) := by
  induction n generalizing s with
  | zero => cases hrun; exact ⟨0, (List.append_nil _).symm⟩
  | succ n ih =>
    obtain ⟨_, ⟨⟩, hbusy, hreset⟩ := hruns 0 n.succ_pos
    replace hstate := hstate hbusy
    cases hstep : step s with
    | fault r => simp only [runSteps, hstep, reduceCtorEq] at hrun
    | refused r => simp only [runSteps, hstep, reduceCtorEq] at hrun
    | next u =>
      rw [runSteps_next hstep] at hrun
      obtain ⟨later, hmove, -⟩ := move_of_step hstep
      obtain ⟨htxf, hdest, -⟩ : u.txf = s.txf ∧ u.txdest = s.txdest ∧ u.filter = s.filter :=
        (move_operands hmove hbusy hreset :)
      have hconfig : u.config = s.config := (move_config hmove :)
      have hruns' : ∀ m < n, ∃ v, runSteps m u = .next v ∧ v.busy = true ∧ turnOf v ≠ .reset := fun m hm => by
        rw [← runSteps_next hstep]
        exact hruns (m + 1) (Nat.succ_lt_succ hm)
      obtain ⟨k, hk⟩ := ih (move_sending hmove hstate) (htxf.trans hframe) hruns' hrun
      rw [hconfig, hdest] at hk
      obtain hkept | ⟨-, hlistening, -⟩ | ⟨-, -, f', hframe', hsent⟩ := move_emission hmove hbusy
      · exact ⟨k, hk.trans (congrArg (· ++ _) hkept)⟩
      · rcases hstate with hstate | hstate <;> cases hstate.symm.trans hlistening
      · obtain rfl : f' = f := Option.some.inj (hframe'.symm.trans hframe)
        refine ⟨k + 1, hk.trans ?_⟩
        rw [hsent, List.append_assoc]
        rfl

/-- Settles O50: each step of a busy core by `move_operands` and `move_emission`, and many steps of RSEND by
induction. -/
theorem runningCommandKeepsItsOperands : Obligations.RunningCommandKeepsItsOperands := by
  refine ⟨fun s t hstep hbusy hreset => ?_, fun n s t f hstate hframe hruns hrun =>
    runSteps_txlog n (fun _ => hstate) hframe hruns hrun⟩
  obtain ⟨later, hmove, -⟩ := move_of_step hstep
  obtain ⟨htxf, hdest, hfilter⟩ := move_operands hmove hbusy hreset
  exact ⟨htxf, hdest, hfilter, (move_emission hmove hbusy :)⟩

/-! ## The transmissions a running RSEND can still make -/

theorem sendsLeft_sending (h : s.arqState = .sending) : sendsLeft s = maxAttempts - s.attempts.toNat := by
  simp only [sendsLeft, h]

theorem sendsLeft_awaiting (h : s.arqState = .awaitingResponse) :
    sendsLeft s = maxAttempts - (s.attempts.toNat + 1) := by
  simp only [sendsLeft, h]

theorem move_sendBound (h : Move s turn t) (hstate : s.arqState = .sending ∨ s.arqState = .awaitingResponse)
    (hleft : s.attempts.toNat < maxAttempts) : t.txlog.length + sendsLeft t ≤ s.txlog.length + sendsLeft s := by
  have hnext := attempts_succ hleft
  have hnotListening : s.arqState ≠ .listening := by rcases hstate with h | h <;> rw [h] <;> decide
  cases h with
  | transmit f hsending =>
    rw [sendsLeft_sending hsending, sendsLeft_awaiting rfl, List.length_append, List.length_singleton]
    dsimp only
    omega
  | sNackAgain _ _ _ _ _ hawaiting | sTimeoutAgain hawaiting =>
    rw [sendsLeft_awaiting hawaiting, sendsLeft_sending rfl]
    exact (congrArg (fun n => s.txlog.length + (maxAttempts - n)) hnext).le
  | sAck | sNackFails | sTimeoutFails | rTimeout | reset => exact Nat.le_add_right _ _
  | rAccept _ _ _ _ hlistening | rMismatch _ _ _ _ hlistening => exact absurd hlistening hnotListening
  | hostCommand _ _ _ _ hready => exact absurd hready (not_ready_of_busy (busy_of_sending hstate))
  | _ => exact le_rfl

/-- Settles O54: the transmit step takes one from what is left, a turn back to `Sending` nothing, and RSEND starts
with no attempt used (R161). -/
theorem sendBound : Obligations.SendBound := by
  refine ⟨fun s t hstep hstate hleft => ?_, fun dest filter s t hready hexec hsending => ?_⟩
  · obtain ⟨later, hmove, -⟩ := move_of_step hstep
    exact (move_sendBound hmove hstate hleft :)
  · obtain ⟨hbusy, -⟩ | ⟨-, heffect⟩ := exec_command_cases rfl hexec
    · exact absurd hbusy (not_busy_of_ready hready)
    · cases heffect with
      | rsendOk => rfl
      | rsendNoLink | rsendNoFrame => exact absurd (.inl hsending) (not_sending_of_ready hready)

/-! ## The clock ticks a running command can still take -/

theorem ticksLeft_sending (h : s.arqState = .sending) :
    ticksLeft s = (maxAttempts - s.attempts.toNat) * timeoutMs := by
  simp only [ticksLeft, h]

theorem ticksLeft_awaiting (h : s.arqState = .awaitingResponse) :
    ticksLeft s = s.timer.toNat + (maxAttempts - (s.attempts.toNat + 1)) * timeoutMs := by
  simp only [ticksLeft, h]

theorem ticksLeft_listening (h : s.arqState = .listening) : ticksLeft s = s.timer.toNat := by
  simp only [ticksLeft, h]

/-- A tick of a running deadline takes one from what is left. -/
theorem ticksLeft_tick (hpolling : s.polling = true) :
    ticksLeft { s with timer := s.timer - 1 } + 1 = ticksLeft s := by
  obtain ⟨hstate, htimer⟩ := polling_iff.mp hpolling
  have hpred := timer_pred htimer
  rcases hstate with hstate | hstate
  · rw [ticksLeft_awaiting hstate, ticksLeft_awaiting (s := { s with timer := s.timer - 1 }) hstate]
    dsimp only
    omega
  · rw [ticksLeft_listening hstate, ticksLeft_listening (s := { s with timer := s.timer - 1 }) hstate]
    exact hpred

theorem move_ticksLeft (h : Move s turn t) (hbusy : s.busy = true)
    (hleft : s.arqState = .listening ∨ s.attempts.toNat < maxAttempts) : ticksLeft t ≤ ticksLeft s := by
  cases h with
  | transmit f hsending =>
    rw [ticksLeft_sending hsending, ticksLeft_awaiting rfl, toNat_timeout]
    rcases hleft with hlistening | hleft
    · cases hsending.symm.trans hlistening
    · have hlast : maxAttempts - s.attempts.toNat = maxAttempts - (s.attempts.toNat + 1) + 1 := by omega
      rw [hlast, Nat.succ_mul, Nat.add_comm]
  | sNackAgain _ _ _ _ _ hawaiting | sTimeoutAgain hawaiting =>
    rcases hleft with hlistening | hleft
    · cases hawaiting.symm.trans hlistening
    · rw [ticksLeft_awaiting hawaiting, ticksLeft_sending rfl, attempts_succ hleft]
      exact Nat.le_add_left _ _
  | sAck | sNackFails | sTimeoutFails | rAccept | rTimeout | reset => exact Nat.zero_le _
  | tickDown hpolling => exact (Nat.lt_of_succ_le (ticksLeft_tick hpolling).le).le
  | hostCommand _ _ _ _ hready => exact absurd hready (not_ready_of_busy hbusy)
  | _ => exact le_rfl

theorem move_tick (h : Move s .tick t) (hpolling : s.polling = true) : ticksLeft t + 1 = ticksLeft s := by
  cases h with
  | tickDown => exact ticksLeft_tick hpolling
  | tickIdle hidle => exact absurd hpolling (ne_true_of_eq_false hidle)

/-- Settles O55: no turn adds to the ticks left, and a tick of a running deadline takes one (R159, R161, R178). -/
theorem tickBound : Obligations.TickBound := by
  refine ⟨fun s t hstep hbusy _ hleft => ?_, fun s hsending => ?_⟩
  · obtain ⟨later, hmove, -⟩ := move_of_step hstep
    refine ⟨(move_ticksLeft hmove hbusy hleft :), fun htick hpolling => ?_⟩
    rw [htick] at hmove
    exact (move_tick hmove hpolling :)
  · rw [ticksLeft_sending hsending]
    exact Nat.mul_le_mul_right timeoutMs (Nat.sub_le maxAttempts _)

end Sys2Proof.Proofs
end

section

/-! Two runs of RSEND, turn by turn: the first transmission answered, and none of five answered (spec/42_arq_send.md
rule R162). -/

namespace Sys2Proof.Proofs

open Sys2Proof.Machine

variable {s : State} {f : Frame} {later : List Turn}

/-- An empty queue has room, unless the queue can hold nothing at all (R37). -/
theorem room_of_empty (hqueue : s.rxq = []) (hdepth : s.config.rxqDepth ≠ some 0) (n : Nat)
    (hn : s.config.rxqDepth = some n) : s.rxq.length < n := by
  rw [hqueue]
  exact Nat.pos_of_ne_zero fun hzero => hdepth (hzero ▸ hn)

/-! ## One transmission -/

/-- The state in which `f` was sent `n` ticks ago and the turns `later` remain. -/
def awaitingFor (f : Frame) (n : Nat) (later : List Turn) (s : State) : State :=
  { s with
    txlog := s.txlog ++ [wrap s.config f s.txdest], timer := BitVec.ofNat 11 timeoutMs - BitVec.ofNat 11 n,
    arqState := .awaitingResponse, turns := later }

theorem runSteps_transmit_ticks {n : Nat} (hstate : s.arqState = .sending) (hframe : s.txf = some f)
    (hturns : s.turns = .core :: (List.replicate n .tick ++ later)) (hn : n ≤ timeoutMs) :
    runSteps (n + 1) s = .next (awaitingFor f n later s) := by
  rw [runSteps_next (transmitStep s f _ hturns hstate hframe)]
  exact runSteps_ticks n (.inl rfl) rfl (hn.trans_eq toNat_timeout.symm)

theorem timer_ne_zero {n : Nat} (hn : n < timeoutMs) : BitVec.ofNat 11 timeoutMs - BitVec.ofNat 11 n ≠ 0 := by
  intro hzero
  have hequal := congrArg BitVec.toNat (sub_eq_zero.mp hzero)
  rw [toNat_timeout, BitVec.toNat_ofNat] at hequal
  exact absurd (hequal ▸ Nat.mod_le n (2 ^ 11)) (Nat.not_le.mpr hn)

/-- Settles O57: the transmission and its ticks, the link's delivery into an empty queue, and the poll of the ACK before
the deadline. -/
theorem firstAckSucceeds : Obligations.FirstAckSucceeds := by
  intro s f d r a n later hstate hattempts hframe hqueue hlink hdepth hverdict hsequence htype hn hturns
  rw [List.cons_append, List.append_assoc] at hturns
  have hwaiting := runSteps_transmit_ticks hstate hframe hturns hn.le
  have hdelivered := (linkDelivery (awaitingFor f n (.link d :: .core :: later) s) d (.core :: later) rfl).1
    ⟨hlink, room_of_empty hqueue hdepth⟩
  have hpolled := ((sendPollStep
    { awaitingFor f n (.link d :: .core :: later) s with rxq := s.rxq ++ [d], turns := .core :: later } f later rfl rfl
    (timer_ne_zero hn) hframe).2 d [] (congrArg (· ++ [d]) hqueue)).1 r a hverdict hsequence htype
  have hrun := (runSteps_add hwaiting 2).trans ((runSteps_next hdelivered 1).trans (runSteps_next hpolled 0))
  exact ⟨_, hrun, rfl, rfl, hattempts, rfl, rfl⟩

/-! ## Five transmissions that nothing answers -/

theorem afterAttempt_again (h : s.attempts.toNat + 1 < 5) :
    afterAttempt s = { s with attempts := s.attempts + 1, arqState := .sending } := if_pos h

theorem afterAttempt_last (h : ¬s.attempts.toNat + 1 < 5) :
    afterAttempt s = { s with attempts := s.attempts + 1, arqState := .failed, result := .failedNoAck } := if_neg h

theorem runSteps_silentAttempt (hstate : s.arqState = .sending) (hframe : s.txf = some f)
    (hturns : s.turns = silentAttempt ++ later) :
    runSteps silentAttempt.length s = .next (afterAttempt (awaitingFor f timeoutMs later s)) := by
  have hlength : silentAttempt.length = timeoutMs + 1 + 1 := by
    rw [silentAttempt, List.length_cons, List.length_append, List.length_replicate, List.length_singleton]
  rw [silentAttempt, List.cons_append, List.append_assoc] at hturns
  rw [hlength, runSteps_add (runSteps_transmit_ticks hstate hframe hturns le_rfl)]
  have htimeout := (timeoutSteps (awaitingFor f timeoutMs (.core :: later) s) later rfl (BitVec.sub_self _)).1 rfl
  exact runSteps_next htimeout 0

/-- The attempts that are left, `n` and one, all in silence (R156). -/
theorem runSteps_silentAttempts (n : Nat) (hstate : s.arqState = .sending) (hframe : s.txf = some f)
    (hattempts : s.attempts.toNat + (n + 1) = maxAttempts)
    (hturns : s.turns = (List.replicate (n + 1) silentAttempt).flatten ++ later) :
    ∃ t, runSteps ((n + 1) * silentAttempt.length) s = .next t ∧ t.result = .failedNoAck ∧ t.arqState = .failed ∧
      t.attempts = 5 ∧ t.txlog = s.txlog ++ List.replicate (n + 1) (wrap s.config f s.txdest) ∧ t.turns = later := by
  induction n generalizing s with
  | zero =>
    rw [List.replicate_one, List.flatten_singleton] at hturns
    have hattempt := runSteps_silentAttempt hstate hframe hturns
    have hnext := attempts_succ (show s.attempts.toNat < maxAttempts by omega)
    rw [afterAttempt_last (s := awaitingFor f timeoutMs later s) hattempts.not_lt] at hattempt
    rw [Nat.one_mul]
    exact ⟨_, hattempt, rfl, rfl, BitVec.eq_of_toNat_eq (hnext.trans hattempts), rfl, rfl⟩
  | succ n ih =>
    rw [List.replicate_succ, List.flatten_cons, List.append_assoc] at hturns
    have hattempt := runSteps_silentAttempt hstate hframe hturns
    have hnext := attempts_succ (show s.attempts.toNat < maxAttempts by omega)
    have hagain : s.attempts.toNat + 1 < maxAttempts := by omega
    rw [afterAttempt_again (s := awaitingFor f timeoutMs _ s) hagain] at hattempt
    obtain ⟨t, hrun, hresult, hstate', hattempts', htxlog, hturns'⟩ := ih (s := { awaitingFor f timeoutMs
      ((List.replicate (n + 1) silentAttempt).flatten ++ later) s with
      attempts := s.attempts + 1, arqState := .sending }) rfl hframe (by rw [hnext]; omega) rfl
    refine ⟨t, ?_, hresult, hstate', hattempts', ?_, hturns'⟩
    · rw [Nat.succ_mul, Nat.add_comm]
      exact (runSteps_add hattempt _).trans hrun
    · rw [htxlog, List.replicate_succ (n := n + 1)]
      exact List.append_assoc ..

/-- Settles O56: `silentSend` is five silent attempts, of 2000 ticks each. -/
theorem silentLinkFailsAfterFive : Obligations.SilentLinkFailsAfterFive := by
  intro s f later hstate hattempts hframe _ hturns
  have hcount : silentAttempt.count .tick = timeoutMs := by
    rw [silentAttempt, List.count_cons_of_ne (by decide), List.count_append, List.count_replicate_self]
    rfl
  have hlength : silentSend.length = (4 + 1) * silentAttempt.length := by
    simp only [silentSend, List.length_flatten, List.map_replicate, List.sum_replicate, smul_eq_mul]
  refine ⟨?_, ?_⟩
  · rw [silentSend, List.count_flatten, List.map_replicate, hcount, List.sum_replicate]
    rfl
  · rw [hlength]
    exact runSteps_silentAttempts 4 hstate hframe (by rw [hattempts]; rfl) hturns

end Sys2Proof.Proofs
end

section

/-! One exchange of two cores over the faithful link, turn by turn (spec/20_memory.md rule R63, spec/42_arq_send.md
rules R152 and R153, spec/43_arq_receive.md rule R172). -/

namespace Sys2Proof.Proofs

open Sys2Proof.Machine

variable {s : State}

/-! ## The two verdicts of an exchange -/

theorem coreTurn_response {f r : Frame} {a : Addr} {d : Datagram} {rest : List Datagram}
    (hstate : s.arqState = .awaitingResponse) (htimer : s.timer ≠ 0) (hframe : s.txf = some f)
    (hqueue : s.rxq = d :: rest) (hverdict : unwrap s.config d s.filter = .accept r a)
    (hsequence : r.sequence = f.sequence) (htype : r.type = 0) :
    coreTurn s = .next { s with rxq := rest, result := .succeeded, arqState := .succeeded } := by
  rw [coreTurn_poll_awaiting hstate htimer hframe hqueue, hverdict, takeResponse_ack a hsequence htype]

theorem coreTurn_request {f : Frame} {a : Addr} {d : Datagram} {rest : List Datagram} (hstate : s.arqState = .listening)
    (htimer : s.timer ≠ 0) (hqueue : s.rxq = d :: rest) (hverdict : unwrap s.config d s.filter = .accept f a) :
    coreTurn s = .next { s with
      rxq := rest, txlog := s.txlog ++ [wrap s.config (ackFrame f.sequence) a], rxf := some f, peer := some a,
      result := .received, arqState := .succeeded } := by
  rw [coreTurn_poll_listening hstate htimer hqueue, hverdict, takeRequest_accept]

/-! ## The turns of the pair -/

theorem exchangeTurns_cons {turn : PairTurn} {x y : Exchange} (h : exchangeTurn turn x = .next y)
    (turns : List PairTurn) : exchangeTurns (turn :: turns) x = exchangeTurns turns y := by
  simp only [exchangeTurns, h]

/-- A core's turn puts what it emits onto its faithful direction. -/
theorem exchangeTurn_core {side : Side} {x : Exchange} {s' : State} {sent : List Datagram}
    (hcore : coreTurn (x.core side) = .next s') (hsent : s'.txlog = (x.core side).txlog ++ sent)
    (hfaithful : (x.wire side).faithful) : exchangeTurn (.core side) x =
      .next ((x.setCore side s').setWire side { x.wire side with waiting := (x.wire side).waiting ++ sent }) := by
  have hemitted : emitted (x.core side) s' = sent := by rw [emitted, hsent, List.drop_left]
  simp only [exchangeTurn, Exchange.moveBy, turnStep, hcore, hemitted, sendAll_faithful hfaithful]

theorem deliver_empty (hlink : s.linkState = .opened) (hqueue : s.rxq = []) (hdepth : s.config.rxqDepth ≠ some 0)
    (d : Datagram) : s.deliver d = { s with rxq := [d] } := by
  rw [State.deliver, if_pos ⟨hlink, hasRoom_iff.mpr (room_of_empty hqueue hdepth)⟩, hqueue]
  rfl

/-- The link brings the one datagram on its way to an open handle with an empty queue. -/
theorem exchangeTurn_bring {side : Side} {x : Exchange} {d : Datagram} (hwaiting : (x.wire side).waiting = [d])
    (hlink : (x.core side.other).linkState = .opened) (hqueue : (x.core side.other).rxq = [])
    (hdepth : (x.core side.other).config.rxqDepth ≠ some 0) : exchangeTurn (.bring side) x =
      .next ((x.setCore side.other { x.core side.other with rxq := [d] }).setWire side
        { x.wire side with waiting := [], brought := (x.wire side).brought ++ [d] }) := by
  simp only [exchangeTurn, Exchange.bring, hwaiting, Exchange.offer, deliverAll,
    deliver_empty hlink hqueue hdepth]

/-- One way over the link: a core's turn that emits one datagram, which the link brings before anything else moves. -/
theorem exchangeTurns_relay {side : Side} {x : Exchange} {s' : State} {d : Datagram}
    (hcore : coreTurn (x.core side) = .next s') (hsent : s'.txlog = (x.core side).txlog ++ [d])
    (hfaithful : (x.wire side).faithful) (hwaiting : (x.wire side).waiting = [])
    (hlink : (x.core side.other).linkState = .opened) (hqueue : (x.core side.other).rxq = [])
    (hdepth : (x.core side.other).config.rxqDepth ≠ some 0) (turns : List PairTurn) :
    ∃ y, exchangeTurns (.core side :: .bring side :: turns) x = exchangeTurns turns y ∧ y.core side = s' ∧
      y.core side.other = { x.core side.other with rxq := [d] } ∧ (y.wire side).faithful ∧
      (y.wire side).waiting = [] ∧ y.wire side.other = x.wire side.other := by
  have hemit := exchangeTurn_core hcore hsent hfaithful
  rw [hwaiting, List.nil_append] at hemit
  have hbring := exchangeTurn_bring (side := side)
    (x := (x.setCore side s').setWire side { x.wire side with waiting := [d] }) (d := d)
    (by simp) (by simpa using hlink) (by simpa using hqueue) (by simpa using hdepth)
  refine ⟨_, (exchangeTurns_cons hemit _).trans (exchangeTurns_cons hbring _), ?_, ?_, ?_, ?_, ?_⟩
  · simp
  · simp
  · simpa [Wire.faithful] using hfaithful
  · simp
  · simp

/-! ## The frame and its acknowledgment -/

/-- What one core wraps, a core configured alike unwraps, from the first one's source pattern (R140, R264). -/
theorem unwrap_wrap_alike {c c' : Config} {f : Frame} {dest : Addr} {filter : Filter} (hsound : soundFrame f = true)
    (hmarker : c.startMarker = c'.startMarker) (hethertype : c.ethertype = c'.ethertype)
    (hfilter : filter = none ∨ filter = some dest) : unwrap c' (wrap c f dest) filter = .accept f c.srcPattern := by
  obtain ⟨hwf, hvalid⟩ := Bool.and_eq_true_iff.mp hsound
  have hpasses : filterPasses filter dest = true := by
    rcases hfilter with rfl | rfl
    · exact filterPasses_none dest
    · exact (filterPasses_some_iff dest dest).mpr rfl
  have hverdict := unwrap_datagramBytes (b := ⟨c.startMarker, f.length, f.sequence, f.checksum, f.payload⟩) hwf c'
    f.type ⟨dest, c.srcPattern, c.ethertype⟩ [] filter
  rw [List.append_nil, if_pos ⟨hethertype, hpasses, hmarker⟩] at hverdict
  rw [wrap_eq_datagramBytes, hverdict]
  exact if_pos hvalid

/-- Settles O59: the five turns one after another; the listener's verdict is the sender's frame, and the sender's
verdict the listener's ACK. -/
theorem faithfulExchangeDelivers : Obligations.FaithfulExchangeDelivers := by
  intro x f ⟨hab, hba⟩ habWaiting hbaWaiting haState haFrame hsound hbState hbTimer haLink hbLink haQueue hbQueue
    haDepth hbDepth hmarker hethertype haFilter hbFilter
  have hrequest : unwrap x.b.config (wrap x.a.config f x.a.txdest) x.b.filter = .accept f x.a.config.srcPattern :=
    unwrap_wrap_alike hsound hmarker hethertype hbFilter
  have hresponse : unwrap x.a.config (wrap x.b.config (ackFrame f.sequence) x.a.config.srcPattern) x.a.filter =
      .accept (ackFrame f.sequence) x.b.config.srcPattern :=
    unwrap_wrap_alike (soundFrame_ackFrame _) hmarker.symm hethertype.symm haFilter
  obtain ⟨y, hthere, hya, hyb, hyab, hyabWaiting, hyba⟩ := exchangeTurns_relay (side := .a) (x := x)
    (coreTurn_transmit haState haFrame) rfl hab habWaiting hbLink hbQueue hbDepth [.core .b, .bring .b, .core .a]
  replace hyb : y.b = { x.b with rxq := [wrap x.a.config f x.a.txdest] } := hyb
  have hreceive := coreTurn_request (s := y.b) (by rw [hyb]; exact hbState) (by rw [hyb]; exact hbTimer) (by rw [hyb])
    (by rw [hyb]; exact hrequest)
  obtain ⟨z, hback, hzb, hza, hzba, hzbaWaiting, hzab⟩ := exchangeTurns_relay (side := .b) (x := y) hreceive rfl
    ((congrArg Wire.faithful hyba).mpr hba) ((congrArg Wire.waiting hyba).trans hbaWaiting)
    ((congrArg State.linkState hya).trans haLink) ((congrArg State.rxq hya).trans haQueue)
    (ne_of_eq_of_ne (congrArg (Config.rxqDepth ∘ State.config) hya) haDepth) [.core .a]
  replace hzb : z.b = { x.b with
      rxq := [], txlog := x.b.txlog ++ [wrap x.b.config (ackFrame f.sequence) x.a.config.srcPattern], rxf := some f,
      peer := some x.a.config.srcPattern, result := .received, arqState := .succeeded } := by
    rw [show z.b = _ from hzb, hyb]
  replace hza : z.a = { x.a with
      txlog := x.a.txlog ++ [wrap x.a.config f x.a.txdest], timer := BitVec.ofNat 11 timeoutMs,
      arqState := .awaitingResponse, rxq := [wrap x.b.config (ackFrame f.sequence) x.a.config.srcPattern] } := by
    rw [show z.a = _ from hza, show y.core Side.b.other = _ from hya, hyb]
    rfl
  have hzabFaithful : z.ab.faithful := (congrArg Wire.faithful hzab).mpr hyab
  have hzabWaiting : z.ab.waiting = [] := (congrArg Wire.waiting hzab).trans hyabWaiting
  have hsucceed := coreTurn_response (s := z.a) (f := f) (r := ackFrame f.sequence) (by rw [hza])
    (by rw [hza]; exact timer_ne_zero (n := 0) (by decide)) (by rw [hza]; exact haFrame) (by rw [hza])
    (by rw [hza]; exact hresponse) rfl rfl
  have hend := exchangeTurn_core (side := .a) (x := z) (sent := []) hsucceed (List.append_nil _).symm hzabFaithful
  exact ⟨_, hthere.trans (hback.trans (exchangeTurns_cons hend [])), ⟨hzabFaithful, hzba⟩,
    congrArg (· ++ []) hzabWaiting, hzbaWaiting, rfl, rfl, (congrArg State.attempts hza :),
    (congrArg State.txlog hza :), rfl, (congrArg State.result hzb :), (congrArg State.arqState hzb :),
    (congrArg State.rxf hzb :), (congrArg State.peer hzb :), (congrArg State.rxq hzb :), (congrArg State.txlog hzb :)⟩

end Sys2Proof.Proofs
end

section

/-! The chunked transfer: how a resource is cut, and how its frames make it again (spec/45_host_sequences.md rules
R201 to R204). -/

namespace Sys2Proof.Proofs

open Sys2Proof.Machine

/-! ## The chunks -/

theorem chunksOf_nil (fuel : Nat) : chunksOf fuel [] = [] := by cases fuel <;> rfl

theorem length_firstChunk (b : Byte) (bs : List Byte) :
    ((b :: bs).take maxPayload).length = min 127 (bs.length + 1) := List.length_take

theorem length_afterChunk (b : Byte) (bs : List Byte) :
    ((b :: bs).drop maxPayload).length = bs.length + 1 - 127 := List.length_drop

section Chunks

variable {fuel : Nat} {content : List Byte}

theorem flatten_chunksOf (h : content.length ≤ fuel) : (chunksOf fuel content).flatten = content := by
  induction fuel, content using chunksOf.induct with
  | case1 content => rw [List.length_eq_zero_iff.mp (Nat.le_zero.mp h)]; rfl
  | case2 => rfl
  | case3 fuel b bs ih =>
    rw [List.length_cons] at h
    rw [chunksOf, List.flatten_cons, ih (by rw [length_afterChunk]; omega), List.take_append_drop]

theorem length_chunksOf (h : content.length ≤ fuel) :
    (chunksOf fuel content).length = (content.length + 126) / 127 := by
  induction fuel, content using chunksOf.induct with
  | case1 content => rw [List.length_eq_zero_iff.mp (Nat.le_zero.mp h)]; rfl
  | case2 => rfl
  | case3 fuel b bs ih =>
    rw [List.length_cons] at h ⊢
    rw [chunksOf, List.length_cons, ih (by rw [length_afterChunk]; omega), length_afterChunk]
    omega

theorem length_of_mem_chunksOf {c : List Byte} (h : c ∈ chunksOf fuel content) : 1 ≤ c.length ∧ c.length ≤ 127 := by
  induction fuel, content using chunksOf.induct with
  | case1 | case2 => cases h
  | case3 fuel b bs ih =>
    rcases List.mem_cons.mp h with rfl | hrest
    · rw [length_firstChunk]
      omega
    · exact ih hrest

/-- A chunk that another follows is full. -/
theorem length_of_mem_dropLast_chunksOf {c : List Byte} (h : c ∈ (chunksOf fuel content).dropLast) :
    c.length = 127 := by
  induction fuel, content using chunksOf.induct with
  | case1 | case2 => cases h
  | case3 fuel b bs ih =>
    have hfollows : chunksOf fuel ((b :: bs).drop maxPayload) ≠ [] := fun hnone => by
      rw [chunksOf, hnone] at h
      cases h
    rw [chunksOf, List.dropLast_cons_of_ne_nil hfollows] at h
    rcases List.mem_cons.mp h with rfl | hrest
    · have hlong := List.length_pos_iff.mpr fun hnone =>
        hfollows ((congrArg (chunksOf fuel) hnone).trans (chunksOf_nil fuel))
      rw [length_afterChunk] at hlong
      rw [length_firstChunk]
      omega
    · exact ih hrest

end Chunks

/-! ## The frames -/

/-- RECVF's loop over the DATA frames of any chunks and the END_OF_FILE frame joins the chunks (R204). -/
theorem reassemble_chunks (cs : List (List Byte)) :
    reassemble (cs.map (fun c => ((5 : Byte), c)) ++ [(9, [])]) = some cs.flatten := by
  induction cs with
  | nil => rfl
  | cons c cs ih =>
    rw [List.map_cons, List.cons_append, reassemble, if_neg (by decide), if_pos rfl, ih]
    rfl

/-- A payload of at most 127 bytes makes four well-formed commands (R201). -/
theorem sendOne_wf {payload : List Byte} (h : payload.length ≤ 127) (q : BitVec 5) (typ : Byte) (dest : Addr)
    (filter : Filter) : ∀ i ∈ sendOne q typ payload dest filter, i.wf = true := by
  have hbuild : Instr.wf (.build (q.setWidth 8) typ (BitVec.ofNat 8 payload.length) payload) = true := by
    rw [Instr.wf, beq_iff_eq, BitVec.toNat_ofNat, Nat.mod_eq_of_lt (by omega)]
  rintro i (_ | ⟨_, _ | ⟨_, _ | ⟨_, _ | ⟨_, ⟨⟩⟩⟩⟩⟩)
  · rfl
  · exact hbuild
  · rfl
  · rfl

theorem transferFrames_payload {category : Category} {name content : List Byte} (hname : name.length ≤ 127)
    {p : Byte × List Byte} (h : p ∈ transferFrames category name content) : p.2.length ≤ 127 := by
  rcases List.mem_append.mp h with h | h
  · rcases List.mem_cons.mp h with rfl | h
    · exact hname
    · obtain ⟨c, hc, rfl⟩ := List.mem_map.mp h
      exact (length_of_mem_chunksOf hc).2
  · rw [List.mem_singleton.mp h]
    exact Nat.zero_le _

/-- Settles O60: the frames are the metadata frame, one for each chunk and the end; the chunks are those of `chunksOf`
with fuel enough. -/
theorem transferSplitsAndReassembles : Obligations.TransferSplitsAndReassembles := by
  intro category name content hname
  refine ⟨rfl, ?_, ?_, ?_, rfl, ?_, fun _ => length_of_mem_chunksOf, fun _ => length_of_mem_dropLast_chunksOf,
    flatten_chunksOf le_rfl, fun p hp q dest filter => ?_, ?_⟩
  · rintro rfl; rfl
  · rintro rfl; rfl
  · rintro rfl; rfl
  · rw [transferFrames, List.length_append, List.length_cons, List.length_map, chunks, length_chunksOf le_rfl,
      List.length_singleton, Nat.add_comm 1]
  · have hpayload := transferFrames_payload hname hp
    exact ⟨hpayload, sendOne_wf hpayload q p.1 dest filter⟩
  · exact (reassemble_chunks _).trans (congrArg some (flatten_chunksOf le_rfl))

end Sys2Proof.Proofs
end
